-- ==== Sys2Proof/Word.lean ====
section
/-!
DEFINITION. The value types that cross the CORE's boundary (R16): each is a bit vector, because the spec numbers its
bits with bit 0 the least significant (R5). Every value is unsigned; no signed value exists (R5, R66).
-/
namespace Sys2Proof

/-- One byte of a token's byte string (R52). -/
abbrev Byte := BitVec 8

/-- A generation: bit `i` is the state of cell `i`, 1 alive and 0 dead (R45). -/
abbrev Generation := BitVec 64

/-- A rule: bit `k` is the next state of a cell whose neighbourhood code is `k` (R46). -/
abbrev Rule := BitVec 8

/-- A neighbourhood code: left neighbour in bit 2, the cell in bit 1, right neighbour in bit 0 (R47). -/
abbrev Code := BitVec 3

/-- One cell: 1 alive, 0 dead (R45). -/
abbrev Cell := BitVec 1

/-- A request word `REQ73`: operation in bit 72, rule in bits 71:64, generation in bits 63:0 (R53). -/
abbrev Request := BitVec 73

end Sys2Proof
end

