-- ==== Sys2Proof/Syntax.lean ====
section
/-!
DEFINITION. The operations of the CORE as syntax (R53, R56), one constructor per row of spec/opcode_table.json, and
the host's two inputs as the validation collaborator finds them (R57, R109, R116).
-/
namespace Sys2Proof

/-- The whole operation set of the CORE (R1, R123). Operands are whole values, in the order of the spec's textual
form (R56). The bits a RENDER word carries in 71:64 are ignored (R55), so they are no operand. -/
inductive Instr where
  /-- `ADVANCE current, rule` (R65). -/
  | advance (current : Generation) (rule : Rule)
  /-- `RENDER generation` (R90). -/
  | render (generation : Generation)
  deriving DecidableEq, Repr

/-- The names of the host's inputs (R57). -/
inductive ArgName where
  | ruleset
  | initialGeneration
  deriving DecidableEq, Repr

/-- What the collaborator finds where an argument should stand (R116): nothing, a text that is no number, or a
number. Which texts denote which numbers is not given (N8), so the text itself is not modelled: DESIGN CHOICE, safe,
log 12. -/
inductive Arg where
  | missing
  | malformed
  | number (v : Int)
  deriving DecidableEq, Repr

/-- The two arguments of a run (R19, R57): `ruleset` is required, `initial_generation` optional. -/
structure Args where
  ruleset : Arg
  initialGeneration : Arg
  deriving DecidableEq, Repr

/-- The three causes for which the collaborator rejects an input (R116). -/
inductive Cause where
  | missing
  | malformed
  | outOfRange
  deriving DecidableEq, Repr

/-- A rejected input: which argument, and why (R109, R116). -/
structure InputError where
  argument : ArgName
  cause : Cause
  deriving DecidableEq, Repr

end Sys2Proof
end

