-- ==== Sys2Proof/Config.lean ====
section
/-!
DEFINITION. The parameters of R4: the fixed ones as numbers, the tokens' byte strings as a record that claims take as
an argument (U1), and, as constants without a body, the values the spec leaves open (U6, U9).
-/
namespace Sys2Proof

/-- Iterations of the ADVANCE procedure's loop (R4 `ITER`, R68). -/
abbrev Config.iterations : Nat := 64

/-- Glyphs in a rendered row (R4 `GLYPHS`, R51). -/
abbrev Config.glyphsPerRow : Nat := 64

/-- The host's cap on rendered generations (R4 `MAX_GEN`, R105). -/
abbrev Config.maxGenerations : Nat := 32

/-- The host's default initial generation, `1 << 32`: only cell 32 alive (R4, R108). -/
def Config.defaultSeed : Generation := 0x0000000100000000#64

/-- The byte strings of the three tokens (R4, R52): parameters of the machine, so a claim about bytes takes a `Glyphs`
as an argument. That each glyph has one fixed display width on the platform's sink is not visible in its bytes
(log 20). -/
structure Glyphs where
  alive : List Byte
  dead : List Byte
  nl : List Byte
  deriving DecidableEq, Repr

/-- The spec's own default byte strings (R52, D12): PRESUMED there from general knowledge (G1, G2), unsafe for a claim
about bytes, log 9. -/
def Config.defaultGlyphs : Glyphs where
  alive := [0x1B, 0x5B, 0x37, 0x6D, 0x20, 0x1B, 0x5B, 0x30, 0x6D]
  dead := [0x20]
  nl := [0x0A]

/-- The latency of an operation (R4, U6): open, and read by no rule (R143), so no definition of this model reads it
(log 19). -/
opaque Config.latency : Instr → Nat

/-- One less than the status with which a rejected input ends the process: the status is non-zero and otherwise any
value (R109, U9). A free value, log 13. -/
opaque Config.rejectStatusPred : InputError → Nat

/-- The wording of the collaborator's message (U9). A free value, log 13. -/
opaque Config.messageText : InputError → String

/-- Which argument, if any, the message about a wrong `initial_generation` names: R109 says it only for `ruleset`.
A free value, log 13. -/
opaque Config.seedMessageArgument : Cause → Option ArgName

/-- Whether the message is about `ruleset` when both inputs are wrong: the order of checks is open (N10, U9). A free
value, log 13. -/
opaque Config.rulesetReportedFirst : Cause → Cause → Bool

end Sys2Proof
end

