-- ==== Sys2Proof/Machine/State.lean ====
section
/-!
DEFINITION. The state of the machine as plain data. The CORE holds nothing (R10 to R15, R30); what a run changes is the
output stream (R17) and the host's inputs and working state (R19, R20, R107, R110). The reasons a step stops, and the
state at reset (R21, R137).
-/
namespace Sys2Proof.Machine

/-- The two glyphs (R16, R51); neither has a numeric value. -/
inductive Glyph where
  | alive
  | dead
  deriving DecidableEq, Repr

/-- A token of the output stream: a glyph or the row terminator, three values in all (R16, D11). -/
inductive Token where
  | glyph (g : Glyph)
  | nl
  deriving DecidableEq, Repr

/-- Which action is the host's next: the driver's two phases (R107), and before them the turn of the
argument-validation collaborator (R109), which the spec places ahead of the driver (R9) without a phase name of its own
(DESIGN CHOICE, safe, log 12). -/
inductive Phase where
  | validate
  | renderNext
  | advanceNext
  deriving DecidableEq, Repr

/-- Who issues the next request: the driver (R100), or the host itself from a raw sequence of request words, without
the driver (95_test_vectors.md P9). DESIGN CHOICE, safe, log 6. -/
inductive Caller where
  | driver
  | direct
  deriving DecidableEq, Repr

/-- The message of a rejected input (R109): the argument it refers to by name, if any, and its wording. -/
structure Message where
  argument : Option ArgName
  text : String
  deriving DecidableEq, Repr

/-- Everything the spec gives the machine. -/
structure State where
  /-- `OUT`, oldest token first (R17). -/
  out : List Token
  /-- What the collaborator finds in the two arguments (R109, R116). -/
  args : Args
  /-- The host's input `ruleset` (R19); before the collaborator accepts it, log 25. -/
  ruleset : Rule
  /-- The host's input `initial_generation` (R19); before the collaborator accepts it, log 25. -/
  initialGeneration : Generation
  /-- The driver's `rule` (R20); before the driver is entered, log 25. -/
  rule : Rule
  /-- The driver's `cur` (R20); before the driver is entered, log 25. -/
  cur : Generation
  /-- The driver's `next`: the result of the latest ADVANCE (R20, R53). -/
  next : Generation
  /-- The driver's `n`: how many generations have been rendered (R20). -/
  n : Nat
  /-- The driver's `phase` (R107). -/
  phase : Phase
  /-- The driver's `done` (R20); set by a rejection too, log 25. -/
  done : Bool
  /-- The host's exit status, once the run has ended (R109, R110); never written for a direct host, log 26. -/
  exitStatus : Option Nat
  /-- The collaborator's message, once it has rejected an input (R109). -/
  message : Option Message
  /-- Who issues the next request (R100, P9). -/
  caller : Caller
  /-- The request words the host has still to issue directly, oldest first (P9). -/
  requests : List Request
  deriving DecidableEq, Repr

/-- The faults of the machine: none. The set of exception causes of the CORE is empty (R115), and the host's only error
conditions are states of the host (R116). Nothing raises a fault; log 16. -/
inductive Fault where
  deriving DecidableEq, Repr

/-- Why a step is refused. No operation of the CORE is ever refused (R115). -/
inductive Refusal where
  /-- Raised by no arm of `exec`: every row of the opcode table has its meaning. Safe. -/
  | notModelled (mnemonic : String)
  /-- Raised by `step` where the driver has stopped: with `done = 1` there is no step and the run is over (R107).
  Safe: the model stops where the spec has no step (log 7). -/
  | runOver
  /-- Raised by `step` where the host issues requests directly and has none left (P9, R12). Safe (log 7). -/
  | noRequest
  deriving DecidableEq, Repr

/-- The start of a run (R21, R137): `OUT` empty, `rule` and `cur` the two inputs, `n` 0, `done` 0. The inputs at reset
are `ruleset` 0 and `initial_generation` absent, hence the default seed (R108): DESIGN CHOICE, unsafe, log 4. `next` is
unwritten in the spec and 0 here: DESIGN CHOICE, unsafe, log 3. -/
def State.reset : State where
  out := []
  args := { ruleset := .number 0, initialGeneration := .missing }
  ruleset := 0#8
  initialGeneration := Config.defaultSeed
  rule := 0#8
  cur := Config.defaultSeed
  next := 0#64
  n := 0
  phase := .renderNext
  done := false
  exitStatus := none
  message := none
  caller := .driver
  requests := []

end Sys2Proof.Machine
end

