-- ==== Sys2Proof/Machine/Operands.lean ====
section
/-!
DEFINITION. The arithmetic primitives of R6, the neighbourhood codes of R47 to R49 and the rule-table lookup of R50.
All are total functions on unsigned values (R6, R66). The CORE has no operand forms beyond whole values (R30, R36).
-/
namespace Sys2Proof.Machine

/-- `shl64(v, k)`: `(v * 2^k) mod 2^64`, 0 for `k >= 64`, never a shift count taken modulo 64 (R6, R67, log 15). -/
def shl64 (v : Generation) (k : Nat) : Generation := v <<< k

/-- `shr64(v, k)`: the logical right shift `floor(v / 2^k)` (R6). -/
def shr64 (v : Generation) (k : Nat) : Generation := v >>> k

/-- `low3(v)`: `v & 0x7`, the bits `v[2:0]` (R6). -/
def low3 (v : Generation) : Code := v.extractLsb' 0 3

/-- `zext_64(b)` of one looked-up bit (R6). -/
def zext64 (b : Cell) : Generation := b.setWidth 64

/-- `bit(r, k)`: `(r >> k) & 1`, bit number `k` of the rule (R6, R50). -/
def ruleBit (r : Rule) (k : Code) : Cell := r.extractLsb' k.toNat 1

/-- The code of cell 0: the missing right neighbour is 0 (R48). -/
def codeOfCellZero (current : Generation) : Code := low3 (shl64 current 1)

/-- The code formed by iteration `j` of the loop, `j` from 1 to 64 (R49). -/
def codeOfIteration (current : Generation) (j : Nat) : Code := low3 (shr64 current (j - 1))

/-- The left neighbour of cell `i`, cell `i+1`; none beyond cell 63, so dead there (R45, R70, R72). -/
def leftOf (g : Generation) (i : Nat) : Bool := if i ≤ 62 then g.getLsbD (i + 1) else false

/-- The right neighbour of cell `i`, cell `i-1`; none beyond cell 0, so dead there (R45, R70, R72). -/
def rightOf (g : Generation) (i : Nat) : Bool := if 1 ≤ i then g.getLsbD (i - 1) else false

/-- The code of a neighbourhood as a number, `4*L + 2*C + R` (R47, R70). -/
def codeNumber (left centre right : Bool) : Nat := 4 * left.toNat + 2 * centre.toNat + right.toNat

end Sys2Proof.Machine
end

