-- ==== Sys2Proof/Machine/Flags.lean ====
section
/-!
DEFINITION. The CORE has no flags or condition codes (R13). The two conditions of the machine are the host's own, and
are computed here from values the host holds: the fixed point (R104) and the cap (R105).
-/
namespace Sys2Proof.Machine

/-- Bit-for-bit equality of the next generation and the current one, computed by the host (R13, R104). -/
def fixedPoint (next cur : Generation) : Bool := next == cur

/-- The cap on rendered generations is reached (R105, R107). -/
def capReached (n : Nat) : Bool := n == Config.maxGenerations

end Sys2Proof.Machine
end

