-- ==== Sys2Proof/Machine/Ops.lean ====
section
/-!
DEFINITION. The named operations on the state: `Emit` and the ADVANCE response, the only effects an operation of the
CORE has (R7, R53, R112), and the host's writes to its own working state (R20, R107, R109). There is no operation that
takes an exception or returns from one: the CORE has no traps (R115, R119, R120), and no memory operation (R30).
-/
namespace Sys2Proof.Machine

/-- `Emit(t)`: append a token to the end of `OUT` (R7, R17); it always succeeds (R94, premise in log 10). -/
def State.emit (t : Token) (s : State) : State := { s with out := s.out ++ [t] }

/-- The ADVANCE response: the host gets back one generation, held in `next` (R20, R53, R112). -/
def State.respond (g : Generation) (s : State) : State := { s with next := g }

/-- The host takes up the request it issues directly: the rest of its sequence remains (P9). -/
def State.withRequests (ws : List Request) (s : State) : State := { s with requests := ws }

/-- One more generation has been rendered (R103 step (a)). -/
def State.countRow (s : State) : State := { s with n := s.n + 1 }

/-- The driver's next action (R107). -/
def State.enterPhase (p : Phase) (s : State) : State := { s with phase := p }

/-- `cur <- next` (R103 step (d)). -/
def State.replaceCur (s : State) : State := { s with cur := s.next }

/-- The driver stops: `done <- 1`, and a run that ends normally exits 0 (R107, R110, log 14). -/
def State.finish (s : State) : State := { s with done := true, exitStatus := some 0 }

/-- The collaborator hands over two validated inputs, and the driver starts with them (R101, R109). -/
def State.accept (ruleset : Rule) (initial : Generation) (s : State) : State :=
  { s with
    ruleset := ruleset, initialGeneration := initial, rule := ruleset, cur := initial, n := 0, phase := .renderNext }

/-- The collaborator rejects an input: a message, a non-zero status, and the run is over without the CORE (R109). The
spec's `done` is the driver's alone; that it marks this end too, and that the driver's values stay as they were, is the
model's: DESIGN CHOICE, unsafe, log 25. -/
def State.reject (status : Nat) (m : Message) (s : State) : State :=
  { s with done := true, exitStatus := some status, message := some m }

/-- The host issues the request word `w` itself, before anything else it was to issue (P9). -/
def State.present (w : Request) (s : State) : State := { s with caller := .direct, requests := w :: s.requests }

end Sys2Proof.Machine
end

