-- ==== Sys2Proof/Machine/Advance.lean ====
section
/-!
DEFINITION. ADVANCE, the Transition Engine: the procedure of R68 as the spec writes it, and the meaning of the
instruction (R65).
-/
namespace Sys2Proof.Machine

/-- The loop of R68: `k` iterations are left, the next one is `j`, `w` is the working value and `newGen` the result so
far. Iteration 64 places its bit at position 64, which does not exist, so it contributes nothing (R67, R69). -/
def advanceLoop (rule : Rule) : Nat → Nat → Generation → Generation → Generation
  | 0, _, _, newGen => newGen
  | k + 1, j, w, newGen =>
    advanceLoop rule k (j + 1) (shr64 w 1) (newGen ||| shl64 (zext64 (ruleBit rule (low3 w))) j)

/-- The procedure of R68: step 1 sets bit 0 from the code of cell 0, step 2 is the loop of 64 iterations. `new_gen`
starts at 0, which R68 says is implied. -/
def advance (current : Generation) (rule : Rule) : Generation :=
  advanceLoop rule Config.iterations 1 current (0#64 ||| zext64 (ruleBit rule (codeOfCellZero current)))

/-- `g_m`: the `m`-th generation from `g` under a rule (R106). -/
def generation (rule : Rule) (g : Generation) : Nat → Generation
  | 0 => g
  | m + 1 => advance (generation rule g m) rule

/-- `ADVANCE current, rule` (R65): the host gets back the next generation; `OUT` is not touched, nothing else is
read or written, and there is no exception. -/
def execAdvance (current : Generation) (rule : Rule) (s : State) : Host.Outcome State Fault Refusal :=
  .next (s.respond (advance current rule))

end Sys2Proof.Machine
end

