-- ==== Sys2Proof/Machine/Render.lean ====
section
/-!
DEFINITION. RENDER, the Renderer: the row of R51, the procedure of R91, the meaning of the instruction (R90), and the
bytes that stand for tokens on a sink that counts bytes (R52, R96).
-/
namespace Sys2Proof.Machine

/-- The glyph of bit `i` of a generation: `ALIVE` if it is 1, `DEAD` if it is 0 (R51, R93). -/
def glyphOf (g : Generation) (i : Nat) : Token := if g.getLsbD i then .glyph .alive else .glyph .dead

/-- The 64 glyphs of a row, bit 63 first and bit 0 last (R51). -/
def rowGlyphs (g : Generation) : List Token :=
  (List.range Config.glyphsPerRow).map fun n => glyphOf g (Config.glyphsPerRow - 1 - n)

/-- A row: 64 glyphs, then the terminator (R51). -/
def row (g : Generation) : List Token := rowGlyphs g ++ [.nl]

/-- The procedure of R91: emit one glyph per bit, then the terminator. -/
def State.renderRow (g : Generation) (s : State) : State :=
  ((List.range Config.glyphsPerRow).foldl (fun t n => t.emit (glyphOf g (Config.glyphsPerRow - 1 - n))) s).emit .nl

/-- `RENDER generation` (R90): one row is appended to `OUT`; nothing else is read or written, no value comes back, and
there is no exception. -/
def execRender (generation : Generation) (s : State) : Host.Outcome State Fault Refusal :=
  .next (s.renderRow generation)

/-- The byte string of a token (R52), its bytes in string order (R34). -/
def tokenBytes (b : Glyphs) : Token → List Byte
  | .glyph .alive => b.alive
  | .glyph .dead => b.dead
  | .nl => b.nl

/-- The bytes of a token sequence, one token after the other with nothing between them (R34). -/
def bytesOf (b : Glyphs) (ts : List Token) : List Byte := ts.flatMap (tokenBytes b)

/-- The number of 1 bits of a generation (R96). -/
def liveCells (g : Generation) : Nat := (List.range 64).countP g.getLsbD

end Sys2Proof.Machine
end

