-- ==== Sys2Proof/Machine/Dispatch.lean ====
section
/-! DEFINITION. One arm per constructor of Instr, each a direct call of the instruction's meaning. -/
namespace Sys2Proof.Machine

def exec (i : Instr) (s : State) : Host.Outcome State Fault Refusal :=
  match i with
  | .advance current rule => Sys2Proof.Machine.execAdvance current rule s
  | .render generation => Sys2Proof.Machine.execRender generation s

end Sys2Proof.Machine
end

