-- ==== Sys2Proof/WellFormed.lean ====
section
/-!
DEFINITION. What is well formed: every instruction (R54, R55), since its operands have the operand widths (R125), and
the glyph parameters when they keep their one law (R4, U1). The host's inputs are checked by the collaborator
(Machine/Collaborator.lean), not here.
-/
namespace Sys2Proof

/-- No operand value is illegal, reserved or a hint (R54), so no instruction is ill-formed. -/
def Instr.wellFormed : Instr → Bool
  | .advance _ _ => true
  | .render _ => true

/-- The one law of the glyph parameters: the alive token differs from the dead one (R4, R52, U1). -/
def Glyphs.wellFormed (g : Glyphs) : Bool := g.alive != g.dead

end Sys2Proof
end

