-- ==== Sys2Proof/Decode.lean ====
section
/-!
DEFINITION. The request word `REQ73` (R53): its fields, the decoder, which is total because no request word is illegal
(R55), the encoder, and the reading of a table word given as a number. The word is the spec's own choice (D3).
-/
namespace Sys2Proof

/-- Bit 72, the operation (R53). -/
def opField (w : Request) : BitVec 1 := w.extractLsb' 72 1

/-- Bits 71:64, the rule operand of ADVANCE, ignored in RENDER (R53, R55). -/
def ruleField (w : Request) : Rule := w.extractLsb' 64 8

/-- Bits 63:0, the generation operand of either operation (R53). -/
def genField (w : Request) : Generation := w.extractLsb' 0 64

/-- Bit 72 clear selects ADVANCE, set selects RENDER (R53); every word decodes (R55). -/
def decode (w : Request) : Instr :=
  if opField w = 0#1 then .advance (genField w) (ruleField w) else .render (genField w)

/-- A request word from its three fields, the operation the most significant (R53). -/
def requestWord (op : BitVec 1) (rule : Rule) (gen : Generation) : Request := op ++ rule ++ gen

/-- The word of an instruction (R53). A RENDER has 256 words (R55); the encoder writes the one whose ignored bits are
zero, as the spec's programs P1 to P8 do (DESIGN CHOICE, safe, log 18). -/
def encode : Instr → Request
  | .advance current rule => requestWord 0#1 rule current
  | .render generation => requestWord 1#1 0#8 generation

/-- Why a number is not read as a request. -/
inductive DecodeError where
  /-- It has a bit set above bit 72: a request word has 73 bits (R53, R59). Safe: no such word exists. -/
  | widerThanRequest
  deriving DecidableEq, Repr

/-- The instruction of a word given as the number of its low `nbits` bits; the bits above are zero (log 17). -/
def decodeNumber (nbits w : Nat) : Except DecodeError Instr :=
  if w % 2 ^ nbits < 2 ^ 73 then .ok (decode (BitVec.ofNat 73 (w % 2 ^ nbits))) else .error .widerThanRequest

/-- The instruction the decoder reads from a word numbered as spec/opcode_table.json numbers it (log 17). -/
def decodeTableWord (nbits w : Nat) : Option Instr :=
  match decodeNumber nbits w with
  | .ok i => some i
  | .error _ => none

end Sys2Proof
end

