-- ==== Sys2Proof/Machine/Collaborator.lean ====
section
/-!
DEFINITION. The argument-validation collaborator: the contract it owes the CORE (R109), the three causes of rejection
(R116) and the default seed (R108). The mechanism of parsing is out of scope (R3), so its finding is the input.
-/
namespace Sys2Proof.Machine

/-- An argument that must be an integer in `[0, bound - 1]` (R109, R116). -/
def checkNumber (bound : Nat) : Arg → Except Cause Nat
  | .missing => .error .missing
  | .malformed => .error .malformed
  | .number v => if 0 ≤ v ∧ v < bound then .ok v.toNat else .error .outOfRange

/-- `ruleset` is required and an integer in `[0, 255]` (R57, R109). -/
def checkRuleset (a : Arg) : Except Cause Rule :=
  match checkNumber 256 a with
  | .ok v => .ok (BitVec.ofNat 8 v)
  | .error c => .error c

/-- `initial_generation` is an integer in `[0, 2^64 - 1]`, and `1 << 32` when it is not given (R108, R109). -/
def checkSeed : Arg → Except Cause Generation
  | .missing => .ok Config.defaultSeed
  | a =>
    match checkNumber (2 ^ 64) a with
    | .ok v => .ok (BitVec.ofNat 64 v)
    | .error c => .error c

/-- The two validated inputs, or the rejected one; which one is reported when both are wrong is open (U9, log 13). -/
def checkArgs (a : Args) : Except InputError (Rule × Generation) :=
  match checkRuleset a.ruleset, checkSeed a.initialGeneration with
  | .ok r, .ok g => .ok (r, g)
  | .error c, .ok _ => .error { argument := .ruleset, cause := c }
  | .ok _, .error c => .error { argument := .initialGeneration, cause := c }
  | .error c, .error d =>
    if Config.rulesetReportedFirst c d then .error { argument := .ruleset, cause := c }
    else .error { argument := .initialGeneration, cause := d }

/-- The non-zero status of a rejected input (R109); its value is open (log 13). -/
def rejectStatus (e : InputError) : Nat := Config.rejectStatusPred e + 1

/-- The argument a message refers to: a message about an invalid `ruleset` names it (R57, R109), and so does one about a
missing `ruleset` (DESIGN CHOICE, unsafe, log 13); about the other argument the spec does not say (log 13). -/
def messageArgument (e : InputError) : Option ArgName :=
  match e.argument with
  | .ruleset => some .ruleset
  | .initialGeneration => Config.seedMessageArgument e.cause

/-- The descriptive message of a rejected input (R109). -/
def messageOf (e : InputError) : Message := { argument := messageArgument e, text := Config.messageText e }

/-- The collaborator's turn: the driver starts with two validated inputs, or the run ends without the CORE (R109). -/
def State.validate (s : State) : State :=
  match checkArgs s.args with
  | .ok (r, g) => s.accept r g
  | .error e => s.reject (rejectStatus e) (messageOf e)

/-- A run as the outside starts it: the two arguments are given and the collaborator is next (R19, R109, log 21).
The spec gives `ruleset`, `initial_generation`, `rule` and `cur` no value before the driver is entered; through the
collaborator's turn, and after a rejected input, they keep reset's 0 and `1 << 32`: DESIGN CHOICE, unsafe, log 25. -/
def State.invoke (a : Args) : State := { State.reset with args := a, phase := .validate }

/-- The start of a run with two validated inputs (R101, R107, R137, log 21). -/
def State.start (ruleset : Rule) (initial : Generation) : State :=
  (State.invoke { ruleset := .number ruleset.toNat, initialGeneration := .number initial.toNat }).accept ruleset initial

end Sys2Proof.Machine
end

