-- ==== Sys2Proof/Machine/Driver.lean ====
section
/-!
DEFINITION. The host as an agent: which request it issues next (R9, R100) and what it does with the response, as the
step relation of R107; and, as a function of the two inputs, the generations a run renders by the loop of R103.
-/
namespace Sys2Proof.Machine

/-- What the host does next. -/
inductive Turn where
  /-- No step exists. -/
  | stop (r : Refusal)
  /-- The host acts without the CORE. -/
  | own (s : State)
  /-- The host issues a request, and waits for the response (R38, R100). -/
  | request (w : Request) (s : State)
  deriving DecidableEq, Repr

/-- The driver's turn: the collaborator first (R109), then the requests of R107; with `done = 1` there is no step. -/
def driverTurn (s : State) : Turn :=
  if s.done then .stop .runOver
  else match s.phase with
    | .validate => .own s.validate
    | .renderNext => .request (encode (.render s.cur)) s
    | .advanceNext => .request (encode (.advance s.cur s.rule)) s

/-- The turn of a host that issues a raw sequence of requests, in order (P9, R38). The spec gives such a host no exit
status (R110 speaks of the driver's ends); the model never writes one for it: DESIGN CHOICE, unsafe, log 26. -/
def directTurn (s : State) : Turn :=
  match s.requests with
  | [] => .stop .noRequest
  | w :: ws => .request w (s.withRequests ws)

/-- The host's turn, by who issues the next request (log 6). -/
def turn (s : State) : Turn :=
  match s.caller with
  | .driver => driverTurn s
  | .direct => directTurn s

/-- After RENDER: `n <- n + 1`; with rule 0 the driver stops (R102), otherwise ADVANCE is next (R107). -/
def afterRender (s : State) : State :=
  if s.rule = 0#8 then s.countRow.finish else s.countRow.enterPhase .advanceNext

/-- After ADVANCE: the driver stops at a fixed point or at the cap, otherwise `cur <- next` and RENDER is next (R104,
R105, R107). The 32nd ADVANCE is issued and `cur` is not replaced after it (R107, log 8). -/
def afterAdvance (s : State) : State :=
  if fixedPoint s.next s.cur || capReached s.n then s.finish else s.replaceCur.enterPhase .renderNext

/-- What the host does once the response has come (R107); a raw sequence of requests asks nothing more of it,
and writes no exit status either (DESIGN CHOICE, unsafe, log 26). -/
def afterResponse (s : State) : State :=
  match s.caller, s.phase with
  | .direct, _ => s
  | .driver, .validate => s
  | .driver, .renderNext => afterRender s
  | .driver, .advanceNext => afterAdvance s

/-- The host's action applied to what a request gave. -/
def onNext (f : State → State) : Host.Outcome State Fault Refusal → Host.Outcome State Fault Refusal
  | .next s => .next (f s)
  | .fault r => .fault r
  | .refused r => .refused r

/-- The loop of R103 with `k` iterations left: the generations it renders, in order. -/
def loopGenerations (rule : Rule) : Nat → Generation → List Generation
  | 0, _ => []
  | k + 1, cur =>
    cur :: (if fixedPoint (advance cur rule) cur then [] else loopGenerations rule k (advance cur rule))

/-- The generations a run renders, in order: the driver of R103 as a function of its inputs (`RUN`, R58). -/
def runGenerations (ruleset : Rule) (initial : Generation) : List Generation :=
  if ruleset = 0#8 then [initial] else loopGenerations ruleset Config.maxGenerations initial

end Sys2Proof.Machine
end

