-- ==== Sys2Proof/Machine/Step.lean ====
section
/-!
DEFINITION. One step of the machine: the host's turn (R9), and where it issues a request, the operation of the CORE and
the host's use of the response (R107). One request is one operation (R12).
-/
namespace Sys2Proof.Machine

/-- One step. The CORE fetches nothing (R12, R40): the request comes from the host. -/
def step (s : State) : Host.Outcome State Fault Refusal :=
  match turn s with
  | .stop r => .refused r
  | .own t => .next t
  | .request w t => onNext afterResponse (exec (decode w) t)

/-- The state in which the very next step issues the request word given as the number of its low `nbits` bits: the host
issues it directly (P9, log 17 and 21). A number of more than 73 bits is no request word (R59) and `decodeTableWord`
refuses it; `State` holds words of 73 bits only, so here it is cut to its low 73 bits: DESIGN CHOICE, unsafe, log 17. -/
def State.withFetchWord (s : State) (nbits w : Nat) : State := s.present (BitVec.ofNat 73 (w % 2 ^ nbits))

end Sys2Proof.Machine
end

