-- ==== Sys2Proof/Machine/AdvanceForms.lean ====
section
/-!
DEFINITION. The other formulations of ADVANCE the spec gives: the packed form on whole words (R71), the single loop over
65 neighbourhoods (R80) and the loop of 63 iterations (R69); and the rule with left and right exchanged (R79 (h)). The
machine runs R68; that each formulation has the same result is a claim about it, and so is the closed form (R70).
-/
namespace Sys2Proof.Machine

/-- A word or its complement, as the packed form selects by a bit of the code (R71). -/
def wordIf (b : Bool) (v : Generation) : Generation := if b then v else ~~~v

/-- The cells whose neighbourhood code is `k`, as a whole word (R71). -/
def cellsWithCode (current : Generation) (k : Nat) : Generation :=
  wordIf (k.testBit 2) (shr64 current 1) &&& wordIf (k.testBit 1) current &&& wordIf (k.testBit 0) (shl64 current 1)

/-- The packed form: the OR, over the codes whose rule bit is 1, of the cells that have that code (R71). -/
def advancePacked (current : Generation) (rule : Rule) : Generation :=
  (List.range 8).foldl (fun acc k => if rule.getLsbD k then acc ||| cellsWithCode current k else acc) 0#64

/-- The code of index `i` in the single-loop formulation, with the boundary case at `i = 0` (R80). -/
def codeOfIndex (current : Generation) (i : Nat) : Code :=
  if i = 0 then codeOfCellZero current else codeOfIteration current i

/-- The single loop over the first `k` of the 65 conceptual neighbourhoods, indices 0 to 64 (R80). -/
def advanceSingleLoop (current : Generation) (rule : Rule) (k : Nat) : Generation :=
  (List.range k).foldl (fun acc i => acc ||| shl64 (zext64 (ruleBit rule (codeOfIndex current i))) i) 0#64

/-- The procedure of R68 with 63 iterations, which an implementation may run instead of 64 (R69). -/
def advanceShort (current : Generation) (rule : Rule) : Generation :=
  advanceLoop rule 63 1 current (0#64 ||| zext64 (ruleBit rule (codeOfCellZero current)))

/-- A rule with bits 1 and 4 exchanged and bits 3 and 6 exchanged: left and right change places (R79 (h)). -/
def mirrorRule (r : Rule) : Rule :=
  r.extractLsb' 7 1 ++ r.extractLsb' 3 1 ++ r.extractLsb' 5 1 ++ r.extractLsb' 1 1 ++ r.extractLsb' 6 1
    ++ r.extractLsb' 2 1 ++ r.extractLsb' 4 1 ++ r.extractLsb' 0 1

end Sys2Proof.Machine
end

