-- ==== Sys2Proof/Safety.lean ====
section
/-!
DEFINITION. The terms in which claims speak: what an admissible argument is (R109), the named premise about the sink
(U4, D7), and the invariants of the machine, the output stream made of whole rows (R37) and the driver's run (R106).
-/
namespace Sys2Proof.Machine

/-- The argument stands for the rule `r`: an integer in [0, 255] (R109). -/
def RulesetIs (a : Arg) (r : Rule) : Prop := ∃ v : Int, a = .number v ∧ 0 ≤ v ∧ v ≤ 255 ∧ (r.toNat : Int) = v

/-- The argument stands for the generation `g`: an integer in [0, 2^64 - 1], or absent for `1 << 32` (R108, R109). -/
def SeedIs (a : Arg) (g : Generation) : Prop :=
  (a = .missing ∧ g = 1#64 <<< 32) ∨ ∃ v : Int, a = .number v ∧ 0 ≤ v ∧ v ≤ 2 ^ 64 - 1 ∧ (g.toNat : Int) = v

/-- A sink, by what it holds after a stream of tokens was offered to it, accepts every token: the premise under which
a claim about `OUT` is one about the sink (U4, D7, R94; log 10). -/
def SinkAcceptsEveryToken (sink : List Token → List Token) : Prop := ∀ ts, sink ts = ts

/-- The output stream is made of whole rows (R37). -/
def OutIsRows (s : State) : Prop := ∃ gs : List Generation, s.out = gs.flatMap row

/-- The rows of the first `k` generations of a run (R106). -/
def rowsOfRun (rule : Rule) (g : Generation) (k : Nat) : List Token :=
  (List.range k).flatMap fun m => row (generation rule g m)

/-- None of the first `k` generations of a run is a fixed point (R106). -/
def NoFixedPointBefore (rule : Rule) (g : Generation) (k : Nat) : Prop :=
  ∀ m < k, generation rule g (m + 1) ≠ generation rule g m

/-- Where a run stands before RENDER, or after it for rule 0: the driver in phase `RenderNext` (R102, R107). -/
def AtRender (s : State) : Prop :=
  if s.done then s.rule = 0#8 ∧ s.n = 1 ∧ s.cur = s.initialGeneration
  else s.n < 32 ∧ (s.n = 0 ∨ s.rule ≠ 0#8) ∧ s.cur = generation s.rule s.initialGeneration s.n
    ∧ NoFixedPointBefore s.rule s.initialGeneration s.n

/-- Where a run stands before ADVANCE, or after the last one: the driver in phase `AdvanceNext` (R104, R105, R107). -/
def AtAdvance (s : State) : Prop :=
  s.rule ≠ 0#8 ∧ 1 ≤ s.n ∧ s.n ≤ 32 ∧ s.cur = generation s.rule s.initialGeneration (s.n - 1)
    ∧ NoFixedPointBefore s.rule s.initialGeneration (s.n - 1)
    ∧ (s.done = true → s.next = generation s.rule s.initialGeneration s.n ∧ (s.next = s.cur ∨ s.n = 32))

/-- The invariant of a run of the driver that found `before` in `OUT`: what has been printed is the rows of the first
`n` generations, and the driver's state agrees with them (R106, R107). Exit status 0 is D23 (log 14); `cur` and `next`
after the 32nd row are as R107 leaves them (log 8); the phase `validate`, and `done` after a rejection, are the model's
(log 12 and 25). -/
def RunInv (before : List Token) (s : State) : Prop :=
  s.caller = .driver ∧ (s.done = false → s.exitStatus = none) ∧
  match s.phase with
  | .validate =>
    s.out = before ∧ (s.done = true → ∃ e, checkArgs s.args = .error e ∧ s.exitStatus = some (rejectStatus e))
  | .renderNext =>
    s.rule = s.ruleset ∧ s.out = before ++ rowsOfRun s.rule s.initialGeneration s.n
      ∧ (s.done = true → s.exitStatus = some 0) ∧ AtRender s
  | .advanceNext =>
    s.rule = s.ruleset ∧ s.out = before ++ rowsOfRun s.rule s.initialGeneration s.n
      ∧ (s.done = true → s.exitStatus = some 0) ∧ AtAdvance s

end Sys2Proof.Machine
end

