-- ==== Sys2Proof/Certificates/Slice0/Obligations.lean ====
section
/-!
DEFINITION. The statements for the provers. Each docstring says which rule or section of spec/ the statement formalises;
one that rests on a choice of the model's, or on a passage the spec marks as its own decision or derivation, says so.
-/

open Sys2Proof Sys2Proof.Machine

/-! Requests and their words. -/

/-- Decoding an encoded instruction gives it back, from the word and from the word's number in any width of at least 73
bits; every instruction is well formed (R54). The word `REQ73` is the spec's own choice (D3); its numbering is log 17.
-/
def Obligations.DecodeOfEncode : Prop :=
  ∀ i : Instr, i.wellFormed = true ∧ decode (encode i) = i
    ∧ ∀ nbits : Nat, 73 ≤ nbits → decodeTableWord nbits (encode i).toNat = some i

/-- The request format bit by bit (30_encoding.md section 4, D3): bit 72 selects the operation, bits 71:64 are the rule
of ADVANCE, bits 63:0 the generation of either; and what running the decoded word answers. -/
def Obligations.RequestWordBitByBit : Prop :=
  ∀ (w : Request) (s : State),
    (w.getLsbD 72 = false → ∃ current rule, decode w = .advance current rule
      ∧ (∀ i < 64, current.getLsbD i = w.getLsbD i) ∧ (∀ i < 8, rule.getLsbD i = w.getLsbD (64 + i))
      ∧ exec (decode w) s = .next { s with next := advance current rule })
    ∧ (w.getLsbD 72 = true → ∃ generation, decode w = .render generation
      ∧ (∀ i < 64, generation.getLsbD i = w.getLsbD i)
      ∧ exec (decode w) s = .next { s with out := s.out ++ row generation })

/-- Which words spell which instruction (30_encoding.md section 5, D18): exactly one word for an ADVANCE, and for a
RENDER one for each of the 256 values of the ignored field, all different. -/
def Obligations.WordsOfEachInstruction : Prop :=
  (∀ (w : Request) (current : Generation) (rule : Rule),
    decode w = .advance current rule ↔ w = requestWord 0#1 rule current)
  ∧ (∀ (w : Request) (generation : Generation),
    decode w = .render generation ↔ ∃ ignored : BitVec 8, w = requestWord 1#1 ignored generation)
  ∧ (∀ (generation : Generation) (x y : BitVec 8),
    requestWord 1#1 x generation = requestWord 1#1 y generation → x = y)

/-- A number with a bit above bit 72 is no request word and is refused by name; any other is decoded. The model's
choice, log 17. -/
def Obligations.NumberedWordRefusedOnlyWhenWider : Prop :=
  ∀ nbits w : Nat,
    (w % 2 ^ nbits < 2 ^ 73 → decodeTableWord nbits w = some (decode (BitVec.ofNat 73 (w % 2 ^ nbits))))
    ∧ (2 ^ 73 ≤ w % 2 ^ nbits → decodeNumber nbits w = .error .widerThanRequest ∧ decodeTableWord nbits w = none)

/-- Words the spec writes out (95_test_vectors.md programs P1 to P9) decode to the instructions it gives for them. -/
def Obligations.SpecWordsDecode : Prop :=
  decode 0x05A8000000000000001#73 = .advance 0x8000000000000001#64 90#8
  ∧ decode 0x1FF4000000000000002#73 = .render 0x4000000000000002#64
  ∧ decode 0x0334000000000000002#73 = .advance 0x4000000000000002#64 51#8
  ∧ decode 0x100BFFFFFFFFFFFFFFD#73 = .render 0xBFFFFFFFFFFFFFFD#64
  ∧ decode 0x01E0000000100000000#73 = .advance 0x0000000100000000#64 30#8
  ∧ decode 0x0FF0000000000000000#73 = .advance 0x0000000000000000#64 255#8

/-! Running an instruction. -/

/-- A step runs the decoded instruction: a request the host issues directly is the whole step (P9), and each phase of
the driver runs its instruction and then the driver's own action (43_driver_host.md section 1). The direct host is the
model's choice, log 6, and so is that its step adds nothing to `exec`, no exit status either (log 26). -/
def Obligations.StepRunsTheDecodedInstruction : Prop :=
  (∀ (s : State) (w : Request) (ws : List Request), s.caller = .direct → s.requests = w :: ws →
    step s = exec (decode w) { s with requests := ws })
  ∧ (∀ s : State, s.caller = .driver → s.done = false → s.phase = .renderNext →
    step s = onNext afterRender (exec (.render s.cur) s))
  ∧ (∀ s : State, s.caller = .driver → s.done = false → s.phase = .advanceNext →
    step s = onNext afterAdvance (exec (.advance s.cur s.rule) s))

/-- The word that `withFetchWord` presents is what the very next step runs (the model's way to issue a request
directly, log 6, 21 and 26). -/
def Obligations.PresentedWordRunsNext : Prop :=
  ∀ (s : State) (nbits w : Nat) (i : Instr), decodeTableWord nbits w = some i →
    step (s.withFetchWord nbits w) = exec i { s with caller := .direct }

/-- No operation has a fault, a refusal or no answer, for any operand in any state, and there is no cause of an
exception at all (R115). -/
def Obligations.EveryOperationSucceeds : Prop :=
  (∀ (i : Instr) (s : State), (∃ t, exec i s = .next t) ∧ (∀ f, exec i s ≠ .fault f) ∧ ∀ r, exec i s ≠ .refused r)
  ∧ IsEmpty Fault

/-- The response depends on the operands and on nothing else (R10): one value or none, and a sequence of tokens, are
the instruction's in every state, so whatever was requested before; ADVANCE answers a value and emits nothing, RENDER
answers none and emits 65 tokens (41_advance.md section 1, 42_render.md section 1). Everything else is unchanged. -/
def Obligations.ResponseDependsOnOperandsOnly : Prop :=
  ∀ i : Instr, ∃ (value : Option Generation) (tokens : List Token),
    (∀ s : State, exec i s = .next { s with next := value.getD s.next, out := s.out ++ tokens })
    ∧ match i with
      | .advance _ _ => value.isSome = true ∧ tokens = []
      | .render _ => value = none ∧ tokens.length = 65

/-- Repeating an ADVANCE gives the same result and changes nothing more; every RENDER appends another row (R41). -/
def Obligations.AdvanceRepeatsRenderAppendsAgain : Prop :=
  (∀ (current : Generation) (rule : Rule) (s : State), ∃ t, exec (.advance current rule) s = .next t
    ∧ exec (.advance current rule) t = .next t)
  ∧ (∀ (generation : Generation) (s : State), ∃ t u, exec (.render generation) s = .next t
    ∧ exec (.render generation) t = .next u ∧ t.out = s.out ++ row generation
    ∧ u.out = t.out ++ row generation ∧ u ≠ t)

/-! ADVANCE. -/

/-- ADVANCE is the document's procedure (R68), written here with machine shifts and masks on 64-bit words: step 1, then
64 iterations of look up, set bit, shift the working value. It completes in every state, and changes only `next`. -/
def Obligations.AdvanceIsTheDocumentsProcedure : Prop :=
  ∀ (current : Generation) (rule : Rule) (s : State),
    exec (.advance current rule) s = .next { s with
      next := ((List.range' 1 64).foldl
        (fun (p : Generation × Generation) j =>
          (p.1 ||| (((rule.setWidth 64 >>> (p.2 &&& 7#64).toNat) &&& 1#64) <<< j), p.2 >>> 1))
        ((rule.setWidth 64 >>> ((current <<< 1) &&& 7#64).toNat) &&& 1#64, current)).1 }

/-- The result of ADVANCE cell by cell (41_advance.md section 4; derived in the spec from R68, R69, R48 and R49): bit
`i` is the rule bit numbered by left neighbour, cell and right neighbour, with a dead cell beyond either end. ADVANCE
completes in every state, and changes only `next`. -/
def Obligations.AdvanceCellByCell : Prop :=
  ∀ (current : Generation) (rule : Rule) (s : State), ∃ newGen : Generation,
    exec (.advance current rule) s = .next { s with next := newGen }
    ∧ ∀ i < 64, newGen.getLsbD i = rule.getLsbD
        (4 * (if i ≤ 62 then current.getLsbD (i + 1) else false).toNat + 2 * (current.getLsbD i).toNat
          + (if 1 ≤ i then current.getLsbD (i - 1) else false).toNat)

/-- Every bit of the rule byte is the next state for its own neighbourhood of left, centre and right (30_encoding.md
sections 1 and 2). The document's own words are that bit `k` serves the cells whose neighbourhood encodes to `k`; the
table of left, centre and right is the spec's derivation, from the code layout of R47, itself derived from R48 and R49.
The rule is only read, so the CORE never writes one. -/
def Obligations.RuleFieldsByNeighbourhood : Prop :=
  ∀ (current : Generation) (rule : Rule) (s : State), ∃ newGen : Generation,
    exec (.advance current rule) s = .next { s with next := newGen }
    ∧ ∀ i < 64, newGen.getLsbD i =
      match leftOf current i, current.getLsbD i, rightOf current i with
      | true, true, true => rule.getLsbD 7
      | true, true, false => rule.getLsbD 6
      | true, false, true => rule.getLsbD 5
      | true, false, false => rule.getLsbD 4
      | false, true, true => rule.getLsbD 3
      | false, true, false => rule.getLsbD 2
      | false, false, true => rule.getLsbD 1
      | false, false, false => rule.getLsbD 0

/-- The packed form on whole words computes what ADVANCE computes (41_advance.md section 4, derived in the spec). -/
def Obligations.AdvanceEqualsPackedForm : Prop :=
  ∀ (current : Generation) (rule : Rule) (s : State),
    exec (.advance current rule) s = .next { s with next := advancePacked current rule }

/-- The 64th iteration contributes nothing (R69): its code is the one bit 63 of the operand, and 63 iterations, or the
single loop over indices 0 to 63 or 0 to 64 (R80), have the same result; with the spec's example of the discard. -/
def Obligations.LastIterationContributesNothing : Prop :=
  (∀ (current : Generation) (rule : Rule),
    (codeOfIteration current 64).toNat = (current.getLsbD 63).toNat
    ∧ advance current rule = advanceShort current rule
    ∧ advance current rule = advanceSingleLoop current rule 64
    ∧ advance current rule = advanceSingleLoop current rule 65)
  ∧ ∀ s : State, exec (.advance 0x8000000000000001#64 90#8) s = .next { s with next := 0x4000000000000002#64 }

/-- The code of cell 0 is its two lowest cells and an implicit 0, never odd (R48). -/
def Obligations.CodeOfCellZero : Prop :=
  ∀ current : Generation,
    codeOfCellZero current = ((current <<< 1) &&& 7#64).setWidth 3
    ∧ (codeOfCellZero current).toNat = 4 * (current.getLsbD 1).toNat + 2 * (current.getLsbD 0).toNat
    ∧ (codeOfCellZero current).toNat ∈ [0, 2, 4, 6]

/-- The code of iteration `j` is the three lowest bits of the operand shifted right `j - 1` times: cells `j+1`, `j` and
`j-1`, where cells beyond index 63 contribute 0; so the code of cell 63 is at most 3 and that of index 64 at most 1
(R49). -/
def Obligations.CodesOfTheIterations : Prop :=
  ∀ (current : Generation) (j : Nat), 1 ≤ j → j ≤ 64 →
    codeOfIteration current j = ((current >>> (j - 1)) &&& 7#64).setWidth 3
    ∧ (codeOfIteration current j).toNat =
      4 * (if j ≤ 62 then current.getLsbD (j + 1) else false).toNat
        + 2 * (if j ≤ 63 then current.getLsbD j else false).toNat + (current.getLsbD (j - 1)).toNat
    ∧ (j = 63 → (codeOfIteration current j).toNat ≤ 3) ∧ (j = 64 → (codeOfIteration current j).toNat ≤ 1)

/-- The lookup is `(rule >> code) & 1`, bit number `code` of the rule, and the same lookup gives every cell its next
state (R50). -/
def Obligations.LookupReadsTheRuleBit : Prop :=
  (∀ (rule : Rule) (code : Code),
    (ruleBit rule code).setWidth 8 = (rule >>> code.toNat) &&& 1#8
    ∧ (ruleBit rule code = 1#1 ↔ rule.getLsbD code.toNat = true))
  ∧ ∀ (current : Generation) (rule : Rule) (i : Nat), i < 64 →
    ((advance current rule).getLsbD i = true ↔ ruleBit rule (codeOfIndex current i) = 1#1)

/-- Shift results at the edges (41_advance.md section 2, R67 and D17): the bit lost by the first shift does not reach a
code; the working value after `k` shifts; a looked-up bit placed at `j` is `b * 2^j`, and 0 at `j = 64`. -/
def Obligations.ShiftsAtTheEdges : Prop :=
  (∀ current : Generation, codeOfCellZero (current ^^^ 0x8000000000000000#64) = codeOfCellZero current)
  ∧ (∀ (w : Generation) (k : Nat), (fun v => shr64 v 1)^[k] w = shr64 w k
    ∧ ∀ i, 64 ≤ i + k → (shr64 w k).getLsbD i = false)
  ∧ (∀ (b : Cell) (j : Nat), 1 ≤ j → j ≤ 63 → (shl64 (zext64 b) j).toNat = b.toNat * 2 ^ j)
  ∧ ∀ b : Cell, shl64 (zext64 b) 64 = 0#64

/-- Rule 0 maps every generation to 0 and rule 255 every generation to `2^64 - 1` (R74). -/
def Obligations.ConstantRules : Prop :=
  ∀ (g : Generation) (s : State),
    exec (.advance g 0#8) s = .next { s with next := 0#64 }
    ∧ exec (.advance g 255#8) s = .next { s with next := 0xFFFFFFFFFFFFFFFF#64 }

/-- The rightmost output bit depends only on bits 0 and 1 of the input (R75). -/
def Obligations.RightmostBit : Prop :=
  ∀ (current : Generation) (rule : Rule),
    (advance current rule).getLsbD 0 = rule.getLsbD (4 * (current.getLsbD 1).toNat + 2 * (current.getLsbD 0).toNat)
    ∧ (advance 0b10#64 rule).getLsbD 0 = ((rule >>> ((0b10 <<< 1) &&& 0x7)) &&& 1#8).getLsbD 0
    ∧ (advance 0b10#64 rule).getLsbD 0 = rule.getLsbD 4

/-- There is no wraparound: the missing neighbour at either end counts as dead, cell 63 does not reach cell 0 and cell 0
does not reach cell 63 (R72). -/
def Obligations.NoWraparound : Prop :=
  ∀ (g : Generation) (rule : Rule),
    (advance g rule).getLsbD 0 = rule.getLsbD (codeNumber (g.getLsbD 1) (g.getLsbD 0) false)
    ∧ (advance g rule).getLsbD 63 = rule.getLsbD (codeNumber false (g.getLsbD 63) (g.getLsbD 62))
    ∧ (advance (g ^^^ 0x8000000000000000#64) rule).getLsbD 0 = (advance g rule).getLsbD 0
    ∧ (advance (g ^^^ 0x0000000000000001#64) rule).getLsbD 63 = (advance g rule).getLsbD 63

/-- Locality (41_advance.md section 6, derived in the spec): result bit `i` depends on three cells and the rule only; no
odd bit of the rule reaches bit 0, and no bit from 4 up reaches bit 63. -/
def Obligations.LocalityOfAdvance : Prop :=
  (∀ (g h : Generation) (rule : Rule) (i : Nat), i < 64 → leftOf g i = leftOf h i → g.getLsbD i = h.getLsbD i →
    rightOf g i = rightOf h i → (advance g rule).getLsbD i = (advance h rule).getLsbD i)
  ∧ (∀ (g : Generation) (r q : Rule), (∀ k < 8, k % 2 = 0 → r.getLsbD k = q.getLsbD k) →
    (advance g r).getLsbD 0 = (advance g q).getLsbD 0)
  ∧ (∀ (g : Generation) (r q : Rule), (∀ k < 4, r.getLsbD k = q.getLsbD k) →
    (advance g r).getLsbD 63 = (advance g q).getLsbD 63)

/-- The rules whose result is a plain word operation (the table of 41_advance.md section 6, derived in the spec). -/
def Obligations.WordOperationRules : Prop :=
  ∀ g : Generation,
    advance g 0#8 = 0#64
    ∧ advance g 255#8 = 0xFFFFFFFFFFFFFFFF#64
    ∧ advance g 204#8 = g
    ∧ advance g 51#8 = ~~~g
    ∧ advance g 240#8 = g >>> 1
    ∧ advance g 170#8 = g <<< 1
    ∧ advance g 15#8 = ~~~(g >>> 1)
    ∧ advance g 85#8 = ~~~(g <<< 1)
    ∧ advance g 90#8 = (g >>> 1) ^^^ (g <<< 1)
    ∧ advance g 150#8 = (g >>> 1) ^^^ g ^^^ (g <<< 1)
    ∧ advance g 30#8 = (g >>> 1) ^^^ (g ||| (g <<< 1))

/-- Left-edge decay for the pure right shift, rule 240: a single live cell at position 63 moves right once a generation
and is gone after exactly 64 (41_advance.md section 5; that the rule is 240 is the spec's own choice, N13). -/
def Obligations.LeftEdgeDecay : Prop :=
  ∀ m : Nat, (m ≤ 63 → generation 240#8 0x8000000000000000#64 m = 1#64 <<< (63 - m))
    ∧ (64 ≤ m → generation 240#8 0x8000000000000000#64 m = 0#64)

/-- The two ends are treated alike (41_advance.md section 7 row (h), derived in the spec): mirroring the operand and
exchanging left and right in the rule mirrors the result. -/
def Obligations.MirrorImage : Prop :=
  ∀ (current : Generation) (rule : Rule),
    advance current.reverse (mirrorRule rule) = (advance current rule).reverse

/-- Corner cases of ADVANCE (41_advance.md section 7 rows (a), (b), (d) and (g), derived in the spec): the all-dead and
the all-alive generation, nothing special at a fixed point, and bit 63 reaches cells 63 and 62 only. -/
def Obligations.AdvanceCornerCases : Prop :=
  (∀ rule : Rule, advance 0#64 rule = if rule.getLsbD 0 then 0xFFFFFFFFFFFFFFFF#64 else 0#64)
  ∧ (∀ (rule : Rule) (i : Nat), i < 64 → (advance 0xFFFFFFFFFFFFFFFF#64 rule).getLsbD i =
    if i = 0 then rule.getLsbD 6 else if i = 63 then rule.getLsbD 3 else rule.getLsbD 7)
  ∧ (∀ (g : Generation) (rule : Rule) (s : State), advance g rule = g →
    exec (.advance g rule) s = .next { s with next := g })
  ∧ (∀ (g : Generation) (rule : Rule) (i : Nat), i < 62 →
    (advance (g ^^^ 0x8000000000000000#64) rule).getLsbD i = (advance g rule).getLsbD i)

/-! RENDER. -/

/-- RENDER completes in every state and appends exactly 65 tokens to `OUT`: for `n` from 0 to 63 the glyph of bit
`63 - n`, then one terminator (R51, R91, R92). Everything else is unchanged. -/
def Obligations.RenderAppendsOneRow : Prop :=
  ∀ (generation : Generation) (s : State), ∃ tokens : List Token,
    exec (.render generation) s = .next { s with out := s.out ++ tokens }
    ∧ tokens.length = 65
    ∧ (∀ n < 64, tokens[n]? = some (if generation.getLsbD (63 - n) then .glyph .alive else .glyph .dead))
    ∧ tokens[64]? = some .nl

/-- A row determines its generation (42_render.md section 1, derived in the spec): two RENDERs that leave the same state
rendered the same generation; and a glyph depends on its own cell only. -/
def Obligations.RowDeterminesGeneration : Prop :=
  (∀ (g h : Generation) (s t : State), exec (.render g) s = .next t → exec (.render h) s = .next t → g = h)
  ∧ (∀ (g h : Generation) (n : Nat), n < 64 → g.getLsbD (63 - n) = h.getLsbD (63 - n) → (row g)[n]? = (row h)[n]?)

/-- Corner cases of RENDER (42_render.md section 2, derived in the spec): no cell, every cell, and a single cell `k`. -/
def Obligations.RenderCornerCases : Prop :=
  ∀ s : State,
    exec (.render 0#64) s = .next { s with out := s.out ++ (List.replicate 64 (.glyph .dead) ++ [.nl]) }
    ∧ exec (.render 0xFFFFFFFFFFFFFFFF#64) s =
      .next { s with out := s.out ++ (List.replicate 64 (.glyph .alive) ++ [.nl]) }
    ∧ ∀ k < 64, exec (.render (1#64 <<< k)) s = .next { s with
        out := s.out ++ (List.replicate (63 - k) (.glyph .dead) ++ [.glyph .alive]
          ++ List.replicate k (.glyph .dead) ++ [.nl]) }

/-- The size of a row in bytes (42_render.md section 2, derived in the spec), for any token byte strings; and for the
spec's default byte strings, which it marks as general knowledge (G1, G2; log 9). -/
def Obligations.RowSizeInBytes : Prop :=
  ∀ (b : Glyphs) (g : Generation),
    (bytesOf b (row g)).length = liveCells g * b.alive.length + (64 - liveCells g) * b.dead.length + b.nl.length
    ∧ (bytesOf Config.defaultGlyphs (row g)).length = 65 + 8 * liveCells g

/-- The premise U4 and D7 name, at work: on a sink that accepts every token, a RENDER adds one row to what the sink
holds, and on a sink that counts bytes its bytes follow those before it (20_memory.md section 2; log 10). -/
def Obligations.SinkReceivesTheRow : Prop :=
  ∀ (sink : List Token → List Token) (b : Glyphs) (g : Generation) (s : State), SinkAcceptsEveryToken sink →
    ∃ t, exec (.render g) s = .next t ∧ sink t.out = sink s.out ++ row g
      ∧ bytesOf b (sink t.out) = bytesOf b (sink s.out) ++ bytesOf b (row g)

/-! The output stream. -/

/-- Every token in `OUT` comes from a RENDER (R111): a step appends either nothing, or exactly the row of the RENDER
request the host issued in that step. -/
def Obligations.EveryTokenComesFromRender : Prop :=
  ∀ s t : State, step s = .next t →
    (t.out = s.out ∧ ∀ w u, turn s = .request w u → ∃ current rule, decode w = .advance current rule)
    ∨ ∃ w u g, turn s = .request w u ∧ decode w = .render g ∧ t.out = s.out ++ row g

/-- Nothing reads `OUT` (10_state.md section 3, D7): with other tokens before it, a step does the same and keeps them.
-/
def Obligations.OutputIsNeverRead : Prop :=
  ∀ (s : State) (before : List Token),
    step { s with out := before ++ s.out } = onNext (fun t => { t with out := before ++ t.out }) (step s)

/-- `OUT` stays a sequence of whole rows, whoever issues the requests (20_memory.md section 3, derived in the spec). -/
def Obligations.OutputStaysWholeRows : Prop :=
  ∀ s t : State, OutIsRows s → step s = .next t → OutIsRows t

/-- Requests the host issues directly take effect in order (20_memory.md section 5): their rows stand in `OUT` in the
order of the RENDERs, and `next` is the result of the last ADVANCE. That there is a direct host, and that its ADVANCE
answers into `next` while its RENDER leaves `next` alone, is the model's choice (log 6 and 24); so is that the exit
status and the driver's values stay as they were, also after the last request (log 26). -/
def Obligations.DirectRequestsTakeEffectInOrder : Prop :=
  ∀ (ws rest : List Request) (s : State), s.caller = .direct → s.requests = ws ++ rest →
    core.run ws.length s = .next { s with
      requests := rest
      out := s.out ++ ws.flatMap fun w => match decode w with | .render g => row g | .advance _ _ => []
      next := ws.foldl (fun v w => match decode w with | .advance c r => advance c r | .render _ => v) s.next }

/-! The host. -/

/-- What the driver's RENDER step does (43_driver_host.md section 1, D22): the row of `cur`, one more counted; with rule
0 the driver stops and exits 0, otherwise ADVANCE is next. Everything else is unchanged. Exit status 0 is the spec's own
decision (43_driver_host.md section 2, D23; log 14), and so is the step relation (D22). -/
def Obligations.DriverRenderStep : Prop :=
  ∀ s : State, s.caller = .driver → s.done = false → s.phase = .renderNext →
    (s.rule = 0#8 → step s = .next { s with
      out := s.out ++ row s.cur, n := s.n + 1, done := true, exitStatus := some 0 })
    ∧ (s.rule ≠ 0#8 → step s = .next { s with out := s.out ++ row s.cur, n := s.n + 1, phase := .advanceNext })

/-- What the driver's ADVANCE step does (43_driver_host.md section 1, D22): the next generation; at a fixed point or at
the cap the driver stops and exits 0 and `cur` is kept, otherwise `cur` is replaced and RENDER is next. Not the source's
but decided: exit status 0 (43_driver_host.md section 2, D23; log 14); at `n = 32` the ADVANCE is issued, `next` written
and `cur` kept, where U10 lets a host omit it (log 8); and the cap is the test `n = 32`, also for an `n` above 32, which
no run reaches (log 23). -/
def Obligations.DriverAdvanceStep : Prop :=
  ∀ s : State, s.caller = .driver → s.done = false → s.phase = .advanceNext →
    (advance s.cur s.rule = s.cur ∨ s.n = 32 → step s = .next { s with
      next := advance s.cur s.rule, done := true, exitStatus := some 0 })
    ∧ (advance s.cur s.rule ≠ s.cur → s.n ≠ 32 → step s = .next { s with
      next := advance s.cur s.rule, cur := advance s.cur s.rule, phase := .renderNext })

/-- Rule zero (43_driver_host.md section 1): the driver issues one RENDER of the initial generation and stops; no
ADVANCE is issued. That the word of the RENDER is `encode`'s is D3 and the model's choice (log 18), and that the step
after the end is refused is the model's choice (log 7). -/
def Obligations.RuleZeroRendersOnce : Prop :=
  ∀ g : Generation, ∃ t, step (.start 0#8 g) = .next t ∧ turn (.start 0#8 g) = .request (encode (.render g)) (.start 0#8 g)
    ∧ t.out = row g ∧ t.done = true ∧ turn t = .stop .runOver ∧ step t = .refused .runOver

/-- The fixed-point stop (43_driver_host.md section 1): where the next generation is the current one the driver stops
without a further row, so a run whose initial generation is a fixed point of a non-zero rule prints exactly one row; a
generation that returns only after more steps does not stop it. How the driver goes on is the step relation D22, with
the cap as the test `n = 32`, so that it goes on for an `n` above 32 too, which no run reaches (log 23). -/
def Obligations.FixedPointStopsTheDriver : Prop :=
  (∀ s : State, s.caller = .driver → s.done = false → s.phase = .advanceNext → advance s.cur s.rule = s.cur →
    ∃ t, step s = .next t ∧ t.done = true ∧ t.out = s.out)
  ∧ (∀ (r : Rule) (g : Generation), r ≠ 0#8 → advance g r = g →
    ∃ t, core.run 2 (.start r g) = .next t ∧ t.done = true ∧ t.out = row g)
  ∧ (∀ s : State, s.caller = .driver → s.done = false → s.phase = .advanceNext → advance s.cur s.rule ≠ s.cur →
    s.n ≠ 32 → ∃ t, step s = .next t ∧ t.done = false ∧ t.phase = .renderNext ∧ t.cur = advance s.cur s.rule)
  ∧ advance 0x0000000100000000#64 1#8 = 0xFFFFFFFC7FFFFFFF#64
  ∧ advance 0xFFFFFFFC7FFFFFFF#64 1#8 = 0x0000000100000000#64

/-- The cap (43_driver_host.md section 1): however far a run has come it has rendered at most 32 rows, and exactly as
many as it counts; and a run that meets no fixed point before has, after 64 requests, rendered `g_0` to `g_31` and
stopped, with `g_32` computed and not rendered. That the 32nd ADVANCE is the 64th request and leaves `g_32` in `next` is
the model's (log 8): U10 lets a host omit it. -/
def Obligations.AtMostThirtyTwoRows : Prop :=
  (∀ (r : Rule) (g : Generation) (k : Nat) (t : State), core.run k (.start r g) = .next t →
    t.n ≤ 32 ∧ t.out.length = 65 * t.n)
  ∧ ∀ (r : Rule) (g : Generation), r ≠ 0#8 → (∀ m < 31, generation r g (m + 1) ≠ generation r g m) →
    ∃ t, core.run 64 (.start r g) = .next t ∧ t.done = true ∧ t.n = 32
      ∧ t.out = (List.range 32).flatMap (fun m => row (generation r g m)) ∧ t.next = generation r g 32

/-- The invariant of a run of the driver: every step keeps it (the closed form of 43_driver_host.md section 1, derived
in the spec, as it stands at every step). Of its clauses, exit status 0 is the spec's own decision (43_driver_host.md
section 2, D23; log 14); `cur` and `next` after the 32nd row are as the model's driver leaves them, where U10 lets a
host omit the last ADVANCE (log 8); the phase `validate` and its clause are the model's choice (log 12, 13 and 25). -/
def Obligations.StepKeepsRunInv : Prop :=
  ∀ (before : List Token) (s t : State), RunInv before s → step s = .next t → RunInv before t

/-- The invariant of a run holds where a run starts: at reset, with two validated inputs, and before the collaborator;
and `OUT` is made of whole rows there. The inputs at reset and the state before the collaborator are the model's choice
(log 4, 12 and 25). -/
def Obligations.RunInvAtTheStart : Prop :=
  RunInv [] State.reset ∧ OutIsRows State.reset
  ∧ (∀ (r : Rule) (g : Generation), RunInv [] (.start r g) ∧ OutIsRows (.start r g))
  ∧ ∀ a : Args, RunInv [] (.invoke a) ∧ OutIsRows (.invoke a)

/-- The machine's run is the driver's loop (R103): from every pair of inputs, within 64 requests the driver has
stopped, and `OUT` holds the rows of the generations that the loop renders, in order. -/
def Obligations.RunPrintsTheDriversLoop : Prop :=
  ∀ (ruleset : Rule) (initial : Generation), ∃ k ≤ 64, ∃ t, core.run k (.start ruleset initial) = .next t
    ∧ t.done = true ∧ t.out = (runGenerations ruleset initial).flatMap row

/-- What a run prints in closed form (43_driver_host.md section 1, derived in the spec): the rows of `g_0` to
`g_(L-1)`, where `L` is 1 for rule 0, and otherwise `min 32 (f + 1)` for the first fixed point `f`, or 32 when there is
none below 32. -/
def Obligations.WhatARunPrints : Prop :=
  ∀ (ruleset : Rule) (initial : Generation), ∃ (k L : Nat) (t : State),
    k ≤ 64 ∧ core.run k (.start ruleset initial) = .next t ∧ t.done = true
    ∧ t.out = (List.range L).flatMap (fun m => row (generation ruleset initial m))
    ∧ 1 ≤ L ∧ L ≤ 32 ∧ t.out.length = 65 * L
    ∧ (ruleset = 0#8 → L = 1)
    ∧ (ruleset ≠ 0#8 → ∀ f, generation ruleset initial (f + 1) = generation ruleset initial f →
      (∀ m < f, generation ruleset initial (m + 1) ≠ generation ruleset initial m) → L = min 32 (f + 1))
    ∧ (ruleset ≠ 0#8 → (∀ m < 32, generation ruleset initial (m + 1) ≠ generation ruleset initial m) → L = 32)

/-- A run that ends normally exits 0, and while it runs there is no exit status (43_driver_host.md section 2, D23;
log 14). -/
def Obligations.NormalRunExitsZero : Prop :=
  ∀ (r : Rule) (g : Generation) (k : Nat) (t : State), core.run k (.start r g) = .next t →
    (t.done = true → t.exitStatus = some 0) ∧ (t.done = false → t.exitStatus = none) ∧ t.message = none

/-- With `done = 1` there is no step and the run is over, and a host with no request left issues none; a step stops
nowhere else, and never with a fault (R107, R115; that the stop is a refusal is the model's choice, log 7). -/
def Obligations.StepStopsOnlyWhenNothingIsLeft : Prop :=
  ∀ s : State,
    (∀ r, step s = .refused r ↔ (s.caller = .driver ∧ s.done = true ∧ r = .runOver)
      ∨ (s.caller = .direct ∧ s.requests = [] ∧ r = .noRequest))
    ∧ (∀ f, step s ≠ .fault f)
    ∧ ((s.caller = .driver ∧ s.done = false) ∨ (s.caller = .direct ∧ s.requests ≠ []) → ∃ t, step s = .next t)

/-- The calling contract of the collaborator (43_driver_host.md section 2): with two inputs in range the driver starts
with them; with an input that is not, the run ends at once with a message and a non-zero status, `OUT` receives nothing,
and the CORE is never invoked; where only `ruleset` is wrong the message refers to it by name. The model's choice: the
collaborator's turn as one step of its own (log 12), the refusal after it (log 7), that the message names a missing
`ruleset` as it names an invalid one (log 13), and that `done` marks the rejection while the driver's values stay as
they were (log 25). -/
def Obligations.ValidationContract : Prop :=
  ∀ s : State, s.caller = .driver → s.done = false → s.phase = .validate →
    (∀ r g, RulesetIs s.args.ruleset r → SeedIs s.args.initialGeneration g →
      step s = .next { s with
        ruleset := r, initialGeneration := g, rule := r, cur := g, n := 0, phase := .renderNext })
    ∧ ((¬ ∃ r, RulesetIs s.args.ruleset r) ∨ (¬ ∃ g, SeedIs s.args.initialGeneration g) →
      ∃ (status : Nat) (m : Message), step s = .next { s with
          done := true, exitStatus := some status, message := some m }
        ∧ status ≠ 0
        ∧ step { s with done := true, exitStatus := some status, message := some m } = .refused .runOver
        ∧ ((∃ g, SeedIs s.args.initialGeneration g) → m.argument = some .ruleset))

/-- When the host is given no `initial_generation` it uses `1 << 32`, only cell 32 alive (43_driver_host.md section 1).
That the collaborator settles it in a step of its own is the model's choice (log 12). -/
def Obligations.DefaultSeed : Prop :=
  ∀ (r : Rule), ∃ t, step (.invoke { ruleset := .number r.toNat, initialGeneration := .missing }) = .next t
    ∧ t.initialGeneration = 0x0000000100000000#64 ∧ t.cur = 1#64 <<< 32 ∧ t.rule = r
    ∧ ∀ i < 64, t.cur.getLsbD i = decide (i = 32)

/-- The inputs are fixed for the whole run and the driver's `rule` is never written after the start (R19, and the names
of 10_state.md section 4, D22): no step but the collaborator's writes them, the arguments, the message or the caller.
The collaborator's own step, and the fields `args` and `caller`, are the model's choice (log 6 and 12). -/
def Obligations.InputsAreFixedForTheRun : Prop :=
  ∀ s t : State, step s = .next t → s.caller = .direct ∨ s.phase ≠ .validate →
    t.args = s.args ∧ t.ruleset = s.ruleset ∧ t.initialGeneration = s.initialGeneration ∧ t.rule = s.rule
    ∧ t.message = s.message ∧ t.caller = s.caller

/-- The start of a run (70_reset_and_hazards.md section 1): `rule` and `cur` are the two inputs, `n` is 0, `done` is 0,
and `OUT` is empty by the spec's decision D7; the driver's first action is RENDER. Reset is such a state; its inputs,
and the collaborator's step before the start, are the model's choice (log 4 and 12). -/
def Obligations.StartOfARun : Prop :=
  (∀ (r : Rule) (g : Generation), (State.start r g).ruleset = r ∧ (State.start r g).initialGeneration = g
    ∧ (State.start r g).rule = r ∧ (State.start r g).cur = g ∧ (State.start r g).n = 0
    ∧ (State.start r g).done = false ∧ (State.start r g).out = [] ∧ (State.start r g).phase = .renderNext
    ∧ step (.invoke { ruleset := .number r.toNat, initialGeneration := .number g.toNat }) = .next (.start r g))
  ∧ State.reset.rule = State.reset.ruleset ∧ State.reset.cur = State.reset.initialGeneration ∧ State.reset.n = 0
  ∧ State.reset.done = false ∧ State.reset.out = [] ∧ State.reset.phase = .renderNext
end

