-- ==== Sys2Proof/Laws/Operands.lean ====
section
/-! SUPPORT. The primitives of R6, the codes of R48 and R49 and the lookup of R50, bit by bit. -/
namespace Sys2Proof.Machine

theorem shl64_getLsbD (v : Generation) (k i : Nat) :
    (shl64 v k).getLsbD i = (decide (i < 64) && !decide (i < k) && v.getLsbD (i - k)) := by
  rw [shl64, BitVec.getLsbD_shiftLeft]

theorem shr64_getLsbD (v : Generation) (k i : Nat) : (shr64 v k).getLsbD i = v.getLsbD (k + i) := by
  rw [shr64, BitVec.getLsbD_ushiftRight]

/-- Successive shifts to the right add up, as the working value's do (R67). -/
theorem shr64_shr64 (v : Generation) (j k : Nat) : shr64 (shr64 v j) k = shr64 v (j + k) := by
  simp only [shr64, BitVec.shiftRight_add]

/-- The code read from the three low bits (R6, R47). -/
theorem low3_toNat (v : Generation) :
    (low3 v).toNat = codeNumber (v.getLsbD 2) (v.getLsbD 1) (v.getLsbD 0) := by
  have h : ∀ c : Code, c.toNat = codeNumber (c.getLsbD 2) (c.getLsbD 1) (c.getLsbD 0) := by decide
  rw [h]
  simp [low3]

/-- The lookup is bit number `k` of the rule (R50). -/
theorem ruleBit_eq (r : Rule) (k : Code) : ruleBit r k = BitVec.ofBool (r.getLsbD k.toNat) := by
  apply BitVec.eq_of_getLsbD_eq
  intro i hi
  obtain rfl : i = 0 := by omega
  simp [ruleBit]

/-- A looked-up bit placed at position `j` is nowhere else, and nowhere at all for `j = 64` (R67). -/
theorem placed_getLsbD (b : Bool) (j i : Nat) :
    (shl64 (zext64 (BitVec.ofBool b)) j).getLsbD i = (decide (i < 64) && decide (i = j) && b) := by
  have h : ∀ m, (zext64 (BitVec.ofBool b)).getLsbD m = (decide (m = 0) && b) := by
    intro m
    cases b <;> simp [zext64]
  rw [shl64_getLsbD, h]
  by_cases h1 : i < j
  · have h2 : i ≠ j := by omega
    simp [h1, h2]
  · have h2 : i - j = 0 ↔ i = j := by omega
    simp [h1, h2, Bool.and_assoc]

/-- The code of cell 0 as a number: its right neighbour is missing (R48). -/
theorem codeOfCellZero_toNat (g : Generation) :
    (codeOfCellZero g).toNat = codeNumber (g.getLsbD 1) (g.getLsbD 0) false := by
  rw [codeOfCellZero, low3_toNat]
  simp only [shl64_getLsbD]
  rfl

/-- The code of iteration `j` as a number (R49). -/
theorem codeOfIteration_toNat (g : Generation) (j : Nat) (hj : 1 ≤ j) :
    (codeOfIteration g j).toNat = codeNumber (g.getLsbD (j + 1)) (g.getLsbD j) (g.getLsbD (j - 1)) := by
  have h1 : j - 1 + 1 = j := by omega
  have h2 : j - 1 + 2 = j + 1 := by omega
  rw [codeOfIteration, low3_toNat]
  simp only [shr64_getLsbD, h1, h2, Nat.add_zero]

end Sys2Proof.Machine
end

