-- ==== Sys2Proof/Laws/State.lean ====
section
/-! SUPPORT. What each named update of the state does to each field: one lemma per field per update. -/
namespace Sys2Proof.Machine

section
variable (t : Token) (s : State)
@[simp] theorem emit_out : (s.emit t).out = s.out ++ [t] := rfl
@[simp] theorem emit_args : (s.emit t).args = s.args := rfl
@[simp] theorem emit_ruleset : (s.emit t).ruleset = s.ruleset := rfl
@[simp] theorem emit_initialGeneration : (s.emit t).initialGeneration = s.initialGeneration := rfl
@[simp] theorem emit_rule : (s.emit t).rule = s.rule := rfl
@[simp] theorem emit_cur : (s.emit t).cur = s.cur := rfl
@[simp] theorem emit_next : (s.emit t).next = s.next := rfl
@[simp] theorem emit_n : (s.emit t).n = s.n := rfl
@[simp] theorem emit_phase : (s.emit t).phase = s.phase := rfl
@[simp] theorem emit_done : (s.emit t).done = s.done := rfl
@[simp] theorem emit_exitStatus : (s.emit t).exitStatus = s.exitStatus := rfl
@[simp] theorem emit_message : (s.emit t).message = s.message := rfl
@[simp] theorem emit_caller : (s.emit t).caller = s.caller := rfl
@[simp] theorem emit_requests : (s.emit t).requests = s.requests := rfl
end

section
variable (g : Generation) (s : State)
@[simp] theorem respond_out : (s.respond g).out = s.out := rfl
@[simp] theorem respond_args : (s.respond g).args = s.args := rfl
@[simp] theorem respond_ruleset : (s.respond g).ruleset = s.ruleset := rfl
@[simp] theorem respond_initialGeneration : (s.respond g).initialGeneration = s.initialGeneration := rfl
@[simp] theorem respond_rule : (s.respond g).rule = s.rule := rfl
@[simp] theorem respond_cur : (s.respond g).cur = s.cur := rfl
@[simp] theorem respond_next : (s.respond g).next = g := rfl
@[simp] theorem respond_n : (s.respond g).n = s.n := rfl
@[simp] theorem respond_phase : (s.respond g).phase = s.phase := rfl
@[simp] theorem respond_done : (s.respond g).done = s.done := rfl
@[simp] theorem respond_exitStatus : (s.respond g).exitStatus = s.exitStatus := rfl
@[simp] theorem respond_message : (s.respond g).message = s.message := rfl
@[simp] theorem respond_caller : (s.respond g).caller = s.caller := rfl
@[simp] theorem respond_requests : (s.respond g).requests = s.requests := rfl
end

section
variable (ws : List Request) (s : State)
@[simp] theorem withRequests_out : (s.withRequests ws).out = s.out := rfl
@[simp] theorem withRequests_args : (s.withRequests ws).args = s.args := rfl
@[simp] theorem withRequests_ruleset : (s.withRequests ws).ruleset = s.ruleset := rfl
@[simp] theorem withRequests_initialGeneration : (s.withRequests ws).initialGeneration = s.initialGeneration := rfl
@[simp] theorem withRequests_rule : (s.withRequests ws).rule = s.rule := rfl
@[simp] theorem withRequests_cur : (s.withRequests ws).cur = s.cur := rfl
@[simp] theorem withRequests_next : (s.withRequests ws).next = s.next := rfl
@[simp] theorem withRequests_n : (s.withRequests ws).n = s.n := rfl
@[simp] theorem withRequests_phase : (s.withRequests ws).phase = s.phase := rfl
@[simp] theorem withRequests_done : (s.withRequests ws).done = s.done := rfl
@[simp] theorem withRequests_exitStatus : (s.withRequests ws).exitStatus = s.exitStatus := rfl
@[simp] theorem withRequests_message : (s.withRequests ws).message = s.message := rfl
@[simp] theorem withRequests_caller : (s.withRequests ws).caller = s.caller := rfl
@[simp] theorem withRequests_requests : (s.withRequests ws).requests = ws := rfl
end

section
variable (s : State)
@[simp] theorem countRow_out : (s.countRow).out = s.out := rfl
@[simp] theorem countRow_args : (s.countRow).args = s.args := rfl
@[simp] theorem countRow_ruleset : (s.countRow).ruleset = s.ruleset := rfl
@[simp] theorem countRow_initialGeneration : (s.countRow).initialGeneration = s.initialGeneration := rfl
@[simp] theorem countRow_rule : (s.countRow).rule = s.rule := rfl
@[simp] theorem countRow_cur : (s.countRow).cur = s.cur := rfl
@[simp] theorem countRow_next : (s.countRow).next = s.next := rfl
@[simp] theorem countRow_n : (s.countRow).n = s.n + 1 := rfl
@[simp] theorem countRow_phase : (s.countRow).phase = s.phase := rfl
@[simp] theorem countRow_done : (s.countRow).done = s.done := rfl
@[simp] theorem countRow_exitStatus : (s.countRow).exitStatus = s.exitStatus := rfl
@[simp] theorem countRow_message : (s.countRow).message = s.message := rfl
@[simp] theorem countRow_caller : (s.countRow).caller = s.caller := rfl
@[simp] theorem countRow_requests : (s.countRow).requests = s.requests := rfl
end

section
variable (p : Phase) (s : State)
@[simp] theorem enterPhase_out : (s.enterPhase p).out = s.out := rfl
@[simp] theorem enterPhase_args : (s.enterPhase p).args = s.args := rfl
@[simp] theorem enterPhase_ruleset : (s.enterPhase p).ruleset = s.ruleset := rfl
@[simp] theorem enterPhase_initialGeneration : (s.enterPhase p).initialGeneration = s.initialGeneration := rfl
@[simp] theorem enterPhase_rule : (s.enterPhase p).rule = s.rule := rfl
@[simp] theorem enterPhase_cur : (s.enterPhase p).cur = s.cur := rfl
@[simp] theorem enterPhase_next : (s.enterPhase p).next = s.next := rfl
@[simp] theorem enterPhase_n : (s.enterPhase p).n = s.n := rfl
@[simp] theorem enterPhase_phase : (s.enterPhase p).phase = p := rfl
@[simp] theorem enterPhase_done : (s.enterPhase p).done = s.done := rfl
@[simp] theorem enterPhase_exitStatus : (s.enterPhase p).exitStatus = s.exitStatus := rfl
@[simp] theorem enterPhase_message : (s.enterPhase p).message = s.message := rfl
@[simp] theorem enterPhase_caller : (s.enterPhase p).caller = s.caller := rfl
@[simp] theorem enterPhase_requests : (s.enterPhase p).requests = s.requests := rfl
end

section
variable (s : State)
@[simp] theorem replaceCur_out : (s.replaceCur).out = s.out := rfl
@[simp] theorem replaceCur_args : (s.replaceCur).args = s.args := rfl
@[simp] theorem replaceCur_ruleset : (s.replaceCur).ruleset = s.ruleset := rfl
@[simp] theorem replaceCur_initialGeneration : (s.replaceCur).initialGeneration = s.initialGeneration := rfl
@[simp] theorem replaceCur_rule : (s.replaceCur).rule = s.rule := rfl
@[simp] theorem replaceCur_cur : (s.replaceCur).cur = s.next := rfl
@[simp] theorem replaceCur_next : (s.replaceCur).next = s.next := rfl
@[simp] theorem replaceCur_n : (s.replaceCur).n = s.n := rfl
@[simp] theorem replaceCur_phase : (s.replaceCur).phase = s.phase := rfl
@[simp] theorem replaceCur_done : (s.replaceCur).done = s.done := rfl
@[simp] theorem replaceCur_exitStatus : (s.replaceCur).exitStatus = s.exitStatus := rfl
@[simp] theorem replaceCur_message : (s.replaceCur).message = s.message := rfl
@[simp] theorem replaceCur_caller : (s.replaceCur).caller = s.caller := rfl
@[simp] theorem replaceCur_requests : (s.replaceCur).requests = s.requests := rfl
end

section
variable (s : State)
@[simp] theorem finish_out : (s.finish).out = s.out := rfl
@[simp] theorem finish_args : (s.finish).args = s.args := rfl
@[simp] theorem finish_ruleset : (s.finish).ruleset = s.ruleset := rfl
@[simp] theorem finish_initialGeneration : (s.finish).initialGeneration = s.initialGeneration := rfl
@[simp] theorem finish_rule : (s.finish).rule = s.rule := rfl
@[simp] theorem finish_cur : (s.finish).cur = s.cur := rfl
@[simp] theorem finish_next : (s.finish).next = s.next := rfl
@[simp] theorem finish_n : (s.finish).n = s.n := rfl
@[simp] theorem finish_phase : (s.finish).phase = s.phase := rfl
@[simp] theorem finish_done : (s.finish).done = true := rfl
@[simp] theorem finish_exitStatus : (s.finish).exitStatus = some 0 := rfl
@[simp] theorem finish_message : (s.finish).message = s.message := rfl
@[simp] theorem finish_caller : (s.finish).caller = s.caller := rfl
@[simp] theorem finish_requests : (s.finish).requests = s.requests := rfl
end

section
variable (r : Rule) (g : Generation) (s : State)
@[simp] theorem accept_out : (s.accept r g).out = s.out := rfl
@[simp] theorem accept_args : (s.accept r g).args = s.args := rfl
@[simp] theorem accept_ruleset : (s.accept r g).ruleset = r := rfl
@[simp] theorem accept_initialGeneration : (s.accept r g).initialGeneration = g := rfl
@[simp] theorem accept_rule : (s.accept r g).rule = r := rfl
@[simp] theorem accept_cur : (s.accept r g).cur = g := rfl
@[simp] theorem accept_next : (s.accept r g).next = s.next := rfl
@[simp] theorem accept_n : (s.accept r g).n = 0 := rfl
@[simp] theorem accept_phase : (s.accept r g).phase = .renderNext := rfl
@[simp] theorem accept_done : (s.accept r g).done = s.done := rfl
@[simp] theorem accept_exitStatus : (s.accept r g).exitStatus = s.exitStatus := rfl
@[simp] theorem accept_message : (s.accept r g).message = s.message := rfl
@[simp] theorem accept_caller : (s.accept r g).caller = s.caller := rfl
@[simp] theorem accept_requests : (s.accept r g).requests = s.requests := rfl
end

section
variable (k : Nat) (m : Message) (s : State)
@[simp] theorem reject_out : (s.reject k m).out = s.out := rfl
@[simp] theorem reject_args : (s.reject k m).args = s.args := rfl
@[simp] theorem reject_ruleset : (s.reject k m).ruleset = s.ruleset := rfl
@[simp] theorem reject_initialGeneration : (s.reject k m).initialGeneration = s.initialGeneration := rfl
@[simp] theorem reject_rule : (s.reject k m).rule = s.rule := rfl
@[simp] theorem reject_cur : (s.reject k m).cur = s.cur := rfl
@[simp] theorem reject_next : (s.reject k m).next = s.next := rfl
@[simp] theorem reject_n : (s.reject k m).n = s.n := rfl
@[simp] theorem reject_phase : (s.reject k m).phase = s.phase := rfl
@[simp] theorem reject_done : (s.reject k m).done = true := rfl
@[simp] theorem reject_exitStatus : (s.reject k m).exitStatus = some k := rfl
@[simp] theorem reject_message : (s.reject k m).message = some m := rfl
@[simp] theorem reject_caller : (s.reject k m).caller = s.caller := rfl
@[simp] theorem reject_requests : (s.reject k m).requests = s.requests := rfl
end

section
variable (w : Request) (s : State)
@[simp] theorem present_out : (s.present w).out = s.out := rfl
@[simp] theorem present_args : (s.present w).args = s.args := rfl
@[simp] theorem present_ruleset : (s.present w).ruleset = s.ruleset := rfl
@[simp] theorem present_initialGeneration : (s.present w).initialGeneration = s.initialGeneration := rfl
@[simp] theorem present_rule : (s.present w).rule = s.rule := rfl
@[simp] theorem present_cur : (s.present w).cur = s.cur := rfl
@[simp] theorem present_next : (s.present w).next = s.next := rfl
@[simp] theorem present_n : (s.present w).n = s.n := rfl
@[simp] theorem present_phase : (s.present w).phase = s.phase := rfl
@[simp] theorem present_done : (s.present w).done = s.done := rfl
@[simp] theorem present_exitStatus : (s.present w).exitStatus = s.exitStatus := rfl
@[simp] theorem present_message : (s.present w).message = s.message := rfl
@[simp] theorem present_caller : (s.present w).caller = .direct := rfl
@[simp] theorem present_requests : (s.present w).requests = w :: s.requests := rfl
end

end Sys2Proof.Machine
end

