-- ==== Sys2Proof/Laws/Advance.lean ====
section
/-! SUPPORT. What the loop of R68 computes, bit by bit, and the meaning of ADVANCE as one equation. -/
namespace Sys2Proof.Machine

/-- `k` iterations from iteration `j` with working value `w` set the bits `j` to `j + k - 1`, each to the rule bit its
three bits of `w` select, and leave the rest of the result as it was (R68). -/
theorem advanceLoop_getLsbD (rule : Rule) (k j : Nat) (w acc : Generation) (i : Nat) (hi : i < 64) :
    (advanceLoop rule k j w acc).getLsbD i =
      (acc.getLsbD i || (decide (j ≤ i ∧ i < j + k) &&
        rule.getLsbD (codeNumber (w.getLsbD (i - j + 2)) (w.getLsbD (i - j + 1)) (w.getLsbD (i - j))))) := by
  induction k generalizing j w acc with
  | zero =>
    have h : ¬ (j ≤ i ∧ i < j) := by omega
    simp [advanceLoop, h]
  | succ k ih =>
    rw [advanceLoop, ih, BitVec.getLsbD_or, ruleBit_eq, placed_getLsbD, low3_toNat]
    rcases Nat.lt_trichotomy i j with h | h | h
    · have h1 : ¬ (j + 1 ≤ i ∧ i < j + 1 + k) := by omega
      have h2 : ¬ (j ≤ i ∧ i < j + (k + 1)) := by omega
      have h3 : i ≠ j := by omega
      simp only [h1, h2, h3, decide_false, Bool.false_and, Bool.and_false, Bool.or_false]
    · subst h
      have h1 : ¬ (i + 1 ≤ i ∧ i < i + 1 + k) := by omega
      have h2 : i ≤ i ∧ i < i + (k + 1) := by omega
      rw [decide_eq_false h1, decide_eq_true h2, decide_eq_true hi]
      simp only [decide_true, Bool.true_and, Bool.false_and, Bool.or_false, Nat.sub_self, Nat.zero_add]
    · have h1 : (j + 1 ≤ i ∧ i < j + 1 + k) ↔ (j ≤ i ∧ i < j + (k + 1)) := by omega
      have h2 : i ≠ j := by omega
      have e1 : 1 + (i - (j + 1) + 2) = i - j + 2 := by omega
      have e2 : 1 + (i - (j + 1) + 1) = i - j + 1 := by omega
      have e3 : 1 + (i - (j + 1)) = i - j := by omega
      simp only [shr64_getLsbD, e1, e2, e3, h1, h2]
      simp

@[simp] theorem exec_advance (current : Generation) (rule : Rule) (s : State) :
    exec (.advance current rule) s = .next (s.respond (advance current rule)) := rfl

end Sys2Proof.Machine
end

