-- ==== Sys2Proof/Laws/Collaborator.lean ====
section
/-! SUPPORT. The collaborator's checks accept exactly the admissible arguments (R109), and the start of a run. -/
namespace Sys2Proof.Machine

theorem checkNumber_eq_ok (bound : Nat) (a : Arg) (k : Nat) :
    checkNumber bound a = .ok k ↔ ∃ v : Int, a = .number v ∧ 0 ≤ v ∧ v < bound ∧ (k : Int) = v := by
  cases a with
  | missing => simp [checkNumber]
  | malformed => simp [checkNumber]
  | number v =>
    simp only [checkNumber, Arg.number.injEq]
    constructor
    · intro h
      split at h
      · rename_i hv
        refine ⟨v, rfl, hv.1, hv.2, ?_⟩
        injection h with h
        omega
      · cases h
    · rintro ⟨u, rfl, h0, hb, hk⟩
      rw [if_pos ⟨h0, hb⟩]
      congr 1
      omega

/-- `ruleset` is accepted exactly as the rule it stands for (R109). -/
theorem checkRuleset_eq_ok (a : Arg) (r : Rule) : checkRuleset a = .ok r ↔ RulesetIs a r := by
  have hr := r.isLt
  constructor
  · intro h
    unfold checkRuleset at h
    split at h
    · rename_i k hk
      injection h with h
      obtain ⟨v, ha, h0, hb, hv⟩ := (checkNumber_eq_ok _ _ _).1 hk
      refine ⟨v, ha, h0, by omega, ?_⟩
      rw [← h, BitVec.toNat_ofNat, Nat.mod_eq_of_lt (by omega), hv]
    · cases h
  · rintro ⟨v, ha, h0, hb, hv⟩
    have h : checkNumber 256 a = .ok r.toNat := (checkNumber_eq_ok _ _ _).2 ⟨v, ha, h0, by omega, hv⟩
    rw [checkRuleset, h]
    simp

/-- `initial_generation` is accepted exactly as the generation it stands for (R108, R109). -/
theorem checkSeed_eq_ok (a : Arg) (g : Generation) : checkSeed a = .ok g ↔ SeedIs a g := by
  have hg := g.isLt
  cases a with
  | missing =>
    simp only [checkSeed, SeedIs, Except.ok.injEq, true_and, reduceCtorEq, false_and, exists_false, or_false]
    exact eq_comm
  | malformed => simp [checkSeed, checkNumber, SeedIs]
  | number v =>
    have hn : ∀ k, checkNumber (2 ^ 64) (.number v) = .ok k ↔ _ := checkNumber_eq_ok _ _
    simp only [checkSeed]
    constructor
    · intro h
      split at h
      · rename_i k hk
        injection h with h
        obtain ⟨u, ha, h0, hb, hv⟩ := (hn _).1 hk
        refine .inr ⟨u, ha, h0, by omega, ?_⟩
        rw [← h, BitVec.toNat_ofNat, Nat.mod_eq_of_lt (by omega), hv]
      · cases h
    · rintro (⟨ha, _⟩ | ⟨u, ha, h0, hb, hv⟩)
      · cases ha
      · have h : checkNumber (2 ^ 64) (.number v) = .ok g.toNat := (hn _).2 ⟨u, ha, h0, by omega, hv⟩
        rw [h]
        simp

section
variable (r : Rule) (g : Generation)
@[simp] theorem start_out : (State.start r g).out = [] := rfl
@[simp] theorem start_ruleset : (State.start r g).ruleset = r := rfl
@[simp] theorem start_initialGeneration : (State.start r g).initialGeneration = g := rfl
@[simp] theorem start_rule : (State.start r g).rule = r := rfl
@[simp] theorem start_cur : (State.start r g).cur = g := rfl
@[simp] theorem start_n : (State.start r g).n = 0 := rfl
@[simp] theorem start_phase : (State.start r g).phase = .renderNext := rfl
@[simp] theorem start_done : (State.start r g).done = false := rfl
@[simp] theorem start_exitStatus : (State.start r g).exitStatus = none := rfl
@[simp] theorem start_message : (State.start r g).message = none := rfl
@[simp] theorem start_caller : (State.start r g).caller = .driver := rfl
end

end Sys2Proof.Machine
end

