-- ==== Sys2Proof/Laws/Decode.lean ====
section
/-! SUPPORT. The fields of a request word, read back from the word and bit by bit (R53). -/
namespace Sys2Proof

/-- The bits of a request word by its fields (R53). -/
theorem requestWord_getLsbD (op : BitVec 1) (r : Rule) (g : Generation) (i : Nat) :
    (requestWord op r g).getLsbD i =
      if i < 64 then g.getLsbD i else if i < 72 then r.getLsbD (i - 64) else op.getLsbD (i - 72) := by
  have h : i - 64 - 8 = i - 72 := by omega
  simp only [requestWord, BitVec.getLsbD_append, h]
  by_cases h1 : i < 64
  · simp [h1]
  · by_cases h2 : i < 72
    · have h3 : i - 64 < 8 := by omega
      simp only [h1, h2, h3, if_true, if_false]
    · have h3 : ¬ i - 64 < 8 := by omega
      simp only [h1, h2, h3, if_false]

theorem opField_getLsbD (w : Request) : (opField w).getLsbD 0 = w.getLsbD 72 := by
  rw [opField, BitVec.getLsbD_extractLsb']
  rfl

theorem ruleField_getLsbD (w : Request) (i : Nat) : (ruleField w).getLsbD i = (decide (i < 8) && w.getLsbD (64 + i)) := by
  rw [ruleField, BitVec.getLsbD_extractLsb']

theorem genField_getLsbD (w : Request) (i : Nat) : (genField w).getLsbD i = (decide (i < 64) && w.getLsbD i) := by
  rw [genField, BitVec.getLsbD_extractLsb', Nat.zero_add]

@[simp] theorem opField_requestWord (op : BitVec 1) (r : Rule) (g : Generation) : opField (requestWord op r g) = op := by
  apply BitVec.eq_of_getLsbD_eq
  intro i hi
  obtain rfl : i = 0 := by omega
  rw [opField_getLsbD, requestWord_getLsbD]
  rfl

@[simp] theorem ruleField_requestWord (op : BitVec 1) (r : Rule) (g : Generation) :
    ruleField (requestWord op r g) = r := by
  apply BitVec.eq_of_getLsbD_eq
  intro i hi
  have h1 : ¬ 64 + i < 64 := by omega
  have h2 : 64 + i < 72 := by omega
  rw [ruleField_getLsbD, requestWord_getLsbD, if_neg h1, if_pos h2]
  simp [hi]

@[simp] theorem genField_requestWord (op : BitVec 1) (r : Rule) (g : Generation) :
    genField (requestWord op r g) = g := by
  apply BitVec.eq_of_getLsbD_eq
  intro i hi
  rw [genField_getLsbD, requestWord_getLsbD, if_pos hi]
  simp [hi]

/-- A request word is its three fields (R53). -/
theorem requestWord_fields (w : Request) : requestWord (opField w) (ruleField w) (genField w) = w := by
  apply BitVec.eq_of_getLsbD_eq
  intro i hi
  rw [requestWord_getLsbD]
  by_cases h1 : i < 64
  · rw [if_pos h1, genField_getLsbD]
    simp [h1]
  · by_cases h2 : i < 72
    · have e : 64 + (i - 64) = i := by omega
      have h3 : i - 64 < 8 := by omega
      rw [if_neg h1, if_pos h2, ruleField_getLsbD, e]
      simp [h3]
    · obtain rfl : i = 72 := by omega
      rw [if_neg h1, if_neg h2]
      exact opField_getLsbD w

end Sys2Proof
end

