-- ==== Sys2Proof/Laws/PerInstr.lean ====
section
/-! SUPPORT. Per instruction: its word meets its own row of the opcode table, and is well formed. -/
namespace Sys2Proof.Laws.OpcodeRow

/-- The mask of both rows of spec/opcode_table.json: bit 72 selects the operation (R53). -/
def mask : Request := 0x1000000000000000000#73

/-- An instruction's word, under the table's mask, is its row's pattern (R53), and the instruction is well formed
(R54). -/
def Statement : Instr → Prop
  | .advance c r => encode (.advance c r) &&& mask = 0#73 ∧ (Instr.advance c r).wellFormed = true
  | .render g => encode (.render g) &&& mask = 0x1000000000000000000#73 ∧ (Instr.render g).wellFormed = true

/-- Under the table's mask only the operation bit of a word remains. -/
theorem masked (op : BitVec 1) (r : Rule) (g : Generation) :
    requestWord op r g &&& mask = requestWord op 0#8 0#64 := by
  have h : mask = requestWord 1#1 0#8 0#64 := by decide
  apply BitVec.eq_of_getLsbD_eq
  intro i hi
  rw [BitVec.getLsbD_and, h, requestWord_getLsbD, requestWord_getLsbD, requestWord_getLsbD]
  by_cases h1 : i < 64
  · simp [h1]
  · by_cases h2 : i < 72
    · simp [h1, h2]
    · obtain rfl : i = 72 := by omega
      simp

theorem advance (c : Generation) (r : Rule) : Statement (.advance c r) := by
  refine ⟨?_, rfl⟩
  rw [encode, masked]
  decide

theorem render (g : Generation) : Statement (.render g) := by
  refine ⟨?_, rfl⟩
  rw [encode, masked]
  decide

end Sys2Proof.Laws.OpcodeRow
end

