-- ==== Sys2Proof/Laws/Render.lean ====
section
/-! SUPPORT. The procedure of R91 appends exactly the row of R51, and the shape of a row. -/
namespace Sys2Proof.Machine

theorem emit_all (f : Nat → Token) (ns : List Nat) (s : State) :
    ns.foldl (fun t n => t.emit (f n)) s = { s with out := s.out ++ ns.map f } := by
  induction ns generalizing s with
  | nil => simp
  | cons n ns ih =>
    rw [List.foldl_cons, ih]
    simp [State.emit]

/-- RENDER's procedure appends the row and does nothing else (R91, R92). -/
theorem renderRow_eq (g : Generation) (s : State) : s.renderRow g = { s with out := s.out ++ row g } := by
  rw [State.renderRow, emit_all]
  simp [State.emit, row, rowGlyphs]

@[simp] theorem exec_render (g : Generation) (s : State) :
    exec (.render g) s = .next { s with out := s.out ++ row g } := by
  simp [exec, execRender, renderRow_eq]

@[simp] theorem rowGlyphs_length (g : Generation) : (rowGlyphs g).length = 64 := by simp [rowGlyphs]

@[simp] theorem row_length (g : Generation) : (row g).length = 65 := by simp [row]

/-- Token `n` of a row shows bit `63 - n` (R51). -/
theorem row_glyph (g : Generation) (n : Nat) (h : n < 64) : (row g)[n]? = some (glyphOf g (63 - n)) := by
  rw [row, List.getElem?_append_left (by simpa using h)]
  simp [rowGlyphs, h]

/-- The last token of a row is the terminator (R51, R92). -/
theorem row_terminator (g : Generation) : (row g)[64]? = some .nl := by
  rw [row, List.getElem?_append_right (by simp)]
  simp

end Sys2Proof.Machine
end

