-- ==== Sys2Proof/Laws/Step.lean ====
section
/-! SUPPORT. What one step of the machine can do, once: an equation per turn of the host, and the inversion of a step
that gives a next state. -/
namespace Sys2Proof.Machine

/-- The word of a RENDER decodes to it (R53). -/
theorem decode_render (r : Rule) (g : Generation) : decode (requestWord 1#1 r g) = .render g := by
  simp [decode]

/-- The word of an ADVANCE decodes to it (R53). -/
theorem decode_advance (r : Rule) (g : Generation) : decode (requestWord 0#1 r g) = .advance g r := by
  simp [decode]

section
variable {s : State}

theorem afterRender_zero (h : s.rule = 0#8) : afterRender s = s.countRow.finish := by
  rw [afterRender, if_pos h]

theorem afterRender_nonzero (h : s.rule ≠ 0#8) : afterRender s = s.countRow.enterPhase .advanceNext := by
  rw [afterRender, if_neg h]

theorem afterAdvance_stop (h : s.next = s.cur ∨ s.n = 32) : afterAdvance s = s.finish := by
  rw [afterAdvance, if_pos (by simpa [fixedPoint, capReached] using h)]

theorem afterAdvance_continue (h : s.next ≠ s.cur) (hn : s.n ≠ 32) :
    afterAdvance s = s.replaceCur.enterPhase .renderNext := by
  rw [afterAdvance, if_neg (by simp [fixedPoint, capReached, h, hn])]

theorem step_over (hc : s.caller = .driver) (hd : s.done = true) : step s = .refused .runOver := by
  simp [step, turn, driverTurn, hc, hd]

theorem step_no_request (hc : s.caller = .direct) (hr : s.requests = []) : step s = .refused .noRequest := by
  simp [step, turn, directTurn, hc, hr]

theorem step_validate (hc : s.caller = .driver) (hd : s.done = false) (hp : s.phase = .validate) :
    step s = .next s.validate := by
  simp [step, turn, driverTurn, hc, hd, hp]

theorem step_render (hc : s.caller = .driver) (hd : s.done = false) (hp : s.phase = .renderNext) :
    step s = .next (afterRender { s with out := s.out ++ row s.cur }) := by
  simp [step, turn, driverTurn, hc, hd, hp, encode, decode_render, onNext, afterResponse]

theorem step_advance (hc : s.caller = .driver) (hd : s.done = false) (hp : s.phase = .advanceNext) :
    step s = .next (afterAdvance (s.respond (advance s.cur s.rule))) := by
  simp [step, turn, driverTurn, hc, hd, hp, encode, decode_advance, onNext, afterResponse]

theorem step_direct {w : Request} {ws : List Request} (hc : s.caller = .direct) (hr : s.requests = w :: ws) :
    step s = exec (decode w) (s.withRequests ws) := by
  cases h : decode w <;> simp [step, turn, directTurn, hc, hr, h, onNext, afterResponse]

/-- Everything a step that gives a next state can be: the collaborator's turn, the driver's RENDER or ADVANCE, or a
request the host issues directly. -/
theorem step_next_cases {t : State} (h : step s = .next t) :
    (s.caller = .driver ∧ s.done = false ∧ s.phase = .validate ∧ t = s.validate) ∨
    (s.caller = .driver ∧ s.done = false ∧ s.phase = .renderNext
      ∧ t = afterRender { s with out := s.out ++ row s.cur }) ∨
    (s.caller = .driver ∧ s.done = false ∧ s.phase = .advanceNext
      ∧ t = afterAdvance (s.respond (advance s.cur s.rule))) ∨
    (s.caller = .direct ∧ ∃ w ws g, s.requests = w :: ws ∧ decode w = .render g
      ∧ t = { s with out := s.out ++ row g, requests := ws }) ∨
    (s.caller = .direct ∧ ∃ w ws g r, s.requests = w :: ws ∧ decode w = .advance g r
      ∧ t = { s with next := advance g r, requests := ws }) := by
  have hcaller : s.caller = .driver ∨ s.caller = .direct := by cases s.caller <;> simp
  rcases hcaller with hc | hc
  · have hphase : s.phase = .validate ∨ s.phase = .renderNext ∨ s.phase = .advanceNext := by cases s.phase <;> simp
    rcases Bool.eq_false_or_eq_true s.done with hd | hd
    · rw [step_over hc hd] at h; cases h
    · rcases hphase with hp | hp | hp
      · rw [step_validate hc hd hp] at h; cases h
        exact .inl ⟨hc, hd, hp, rfl⟩
      · rw [step_render hc hd hp] at h; cases h
        exact .inr (.inl ⟨hc, hd, hp, rfl⟩)
      · rw [step_advance hc hd hp] at h; cases h
        exact .inr (.inr (.inl ⟨hc, hd, hp, rfl⟩))
  · by_cases hn : s.requests = []
    · rw [step_no_request hc hn] at h; cases h
    · obtain ⟨w, ws, hr⟩ := List.exists_cons_of_ne_nil hn
      rw [step_direct hc hr] at h
      cases hw : decode w with
      | advance g r =>
        rw [hw, exec_advance] at h
        cases h
        exact .inr (.inr (.inr (.inr ⟨hc, w, ws, g, r, hr, hw, rfl⟩)))
      | render g =>
        rw [hw, exec_render] at h
        cases h
        exact .inr (.inr (.inr (.inl ⟨hc, w, ws, g, hr, hw, rfl⟩)))

end

end Sys2Proof.Machine
end

