-- ==== Sys2Proof/Laws/Run.lean ====
section
/-! SUPPORT. Runs of the machine, one step at a time, and the ways a state can stand. -/
namespace Sys2Proof.Machine

theorem run_zero (s : State) : core.run 0 s = .next s := rfl

/-- A run whose first step gives a next state goes on from there. -/
theorem run_step {s t : State} (h : step s = .next t) (k : Nat) : core.run (k + 1) s = core.run k t := by
  have h' : core.step s = .next t := h
  simp only [Host.Core.run, h']

/-- A run that answers a next state took its first step. -/
theorem run_succ_next {s u : State} {k : Nat} (h : core.run (k + 1) s = .next u) :
    ∃ t, step s = .next t ∧ core.run k t = .next u := by
  cases hst : step s with
  | next t => exact ⟨t, rfl, (run_step hst k).symm.trans h⟩
  | fault f => cases f
  | refused r =>
    have hs : core.step s = .refused r := hst
    simp only [Host.Core.run, hs] at h
    cases h

/-- Two runs one after the other are one run. -/
theorem run_add {j : Nat} : ∀ {s t : State}, core.run j s = .next t → ∀ k, core.run (j + k) s = core.run k t := by
  induction j with
  | zero =>
    intro s t h k
    rw [run_zero] at h
    cases h
    rw [Nat.zero_add]
  | succ j ih =>
    intro s t h k
    obtain ⟨u, hu, hr⟩ := run_succ_next h
    rw [Nat.succ_add, run_step hu, ih hr]

/-- What every step keeps, every run keeps. -/
theorem run_keeps {P : State → Prop} (hstep : ∀ s t, P s → step s = .next t → P t) :
    ∀ (k : Nat) (s t : State), P s → core.run k s = .next t → P t := by
  intro k
  induction k with
  | zero =>
    intro s t hs h
    rw [run_zero] at h
    cases h
    exact hs
  | succ k ih =>
    intro s t hs h
    obtain ⟨u, hu, hr⟩ := run_succ_next h
    exact ih u t (hstep s u hs hu) hr

theorem caller_cases (s : State) : s.caller = .driver ∨ s.caller = .direct := by
  cases s.caller <;> simp

theorem phase_cases (s : State) : s.phase = .validate ∨ s.phase = .renderNext ∨ s.phase = .advanceNext := by
  cases s.phase <;> simp

/-- The rows of one more generation (R106). -/
theorem rowsOfRun_succ (r : Rule) (g : Generation) (k : Nat) :
    rowsOfRun r g (k + 1) = rowsOfRun r g k ++ row (generation r g k) := by
  simp [rowsOfRun, List.range_succ]

theorem rowsOfRun_length (r : Rule) (g : Generation) (k : Nat) : (rowsOfRun r g k).length = 65 * k := by
  induction k with
  | zero => rfl
  | succ k ih => rw [rowsOfRun_succ, List.length_append, ih, row_length, Nat.mul_succ]

end Sys2Proof.Machine
end

