-- ==== Sys2Proof/Tests/Slice0.lean ====
section
/-!
SUPPORT. The model's own tests. Expected values are the spec's (95_test_vectors.md, or a word written out from the
encoding of 30_encoding.md), never the model's. Then, for each statement with hypotheses, a concrete state and operands
that meet them together, at the boundary values where a statement has several clauses.
-/
namespace Sys2Proof.Tests
open Sys2Proof Sys2Proof.Machine

/-! What is ill-formed is refused. -/

/-- R4: the alive token must differ from the dead one. -/
theorem test_equal_glyphs_refused : ({ alive := [0x20], dead := [0x20], nl := [0x0A] } : Glyphs).wellFormed = false := by
  decide

theorem test_default_glyphs_wellFormed : Config.defaultGlyphs.wellFormed = true := by decide

/-- R54: no instruction is ill-formed, so no ill-formed term of `Instr` exists. -/
theorem test_every_instr_wellFormed (i : Instr) : i.wellFormed = true := by cases i <;> rfl

/-- R53, R59: a number with bit 73 set is no request word. -/
theorem test_wide_number_refused : decodeNumber 80 (2 ^ 73) = .error .widerThanRequest := by decide

/-- R109, R116: each input is rejected for each of its causes, at the edge of its range. -/
theorem test_rulesets_rejected :
    checkRuleset .missing = .error .missing ∧ checkRuleset .malformed = .error .malformed
      ∧ checkRuleset (.number 256) = .error .outOfRange ∧ checkRuleset (.number (-1)) = .error .outOfRange
      ∧ checkRuleset (.number 255) = .ok 255#8 := by decide

theorem test_seeds_rejected :
    checkSeed .missing = .ok 0x0000000100000000#64 ∧ checkSeed .malformed = .error .malformed
      ∧ checkSeed (.number (2 ^ 64)) = .error .outOfRange ∧ checkSeed (.number (-1)) = .error .outOfRange
      ∧ checkSeed (.number (2 ^ 64 - 1)) = .ok 0xFFFFFFFFFFFFFFFF#64 := by decide

/-! Words written out bit by bit from R53: bit 72, then the eight rule bits, then the 64 generation bits. -/

/-- Operation 0, rule 01011010 (90), generation with bits 63 and 0 (P9 step 1). -/
theorem test_decode_advance_bits :
    decode 0b0_01011010_1000000000000000000000000000000000000000000000000000000000000001#73
      = .advance 0x8000000000000001#64 90#8 := by decide

/-- Operation 1, ignored bits 11111111, generation with bits 62 and 1 (P9 step 2). -/
theorem test_decode_render_bits :
    decode 0b1_11111111_0100000000000000000000000000000000000000000000000000000000000010#73
      = .render 0x4000000000000002#64 := by decide

/-- P2 step 2, as the table numbers its bits, in whole bytes. -/
theorem test_decodeTableWord_advance :
    decodeTableWord 80 0x0FF0000000000000000 = some (.advance 0#64 255#8) := by decide

/-- P4 step 1. -/
theorem test_decodeTableWord_render :
    decodeTableWord 73 0x1000000000100000000 = some (.render 0x0000000100000000#64) := by decide

/-! One step of each instruction. -/

/-- Vector A6: the lookup at index 64 is discarded, not wrapped to cell 0 (R69). -/
theorem test_advance_discards_index_64 : advance 0x8000000000000000#64 2#8 = 0#64 := by decide

/-- Vector V4. -/
theorem test_advance_rule_30 : advance 0xDEADBEEFCAFEF00D#64 30#8 = 0x90A920883A808819#64 := by decide

/-- Vector T8: bit 63 first, bit 0 last, then the terminator. -/
theorem test_render_row : row 0xF000000000000005#64 =
    List.replicate 4 (.glyph .alive) ++ List.replicate 57 (.glyph .dead)
      ++ [.glyph .alive, .glyph .dead, .glyph .alive, .nl] := by decide

/-- R96 for vector T5: `65 + 8 * 1` bytes. -/
theorem test_row_bytes : (bytesOf Config.defaultGlyphs (row 0x0000000100000000#64)).length = 73 := by decide

/-- The codes K3, K11 and K12 of the spec's vectors. -/
theorem test_codes : codeOfCellZero 0x0000000000000002#64 = 4#3
    ∧ codeOfIteration 0x8000000000000001#64 63 = 2#3 ∧ codeOfIteration 0x8000000000000001#64 64 = 1#3 := by decide

/-! Words that the host presents are run by the next step, from reset. -/

theorem test_presented_advance_runs :
    step (State.reset.withFetchWord 80 0x05A8000000000000001) =
      .next { State.reset with caller := .direct, next := 0x4000000000000002#64 } := by
  rw [State.withFetchWord, step_direct (w := 0x05A8000000000000001#73) (ws := []) rfl (by decide)]
  have h : decode 0x05A8000000000000001#73 = .advance 0x8000000000000001#64 90#8 := by decide
  have r : advance 0x8000000000000001#64 90#8 = 0x4000000000000002#64 := by decide
  rw [h, exec_advance, r]
  rfl

theorem test_presented_render_runs :
    step (State.reset.withFetchWord 73 0x1000000000100000000) =
      .next { State.reset with caller := .direct, out := row 0x0000000100000000#64 } := by
  rw [State.withFetchWord, step_direct (w := 0x1000000000100000000#73) (ws := []) rfl (by decide)]
  have h : decode 0x1000000000100000000#73 = .render 0x0000000100000000#64 := by decide
  rw [h, exec_render]
  rfl

/-! The host. -/

/-- P4: a fixed point of a non-zero rule stops the loop after one row. -/
theorem test_loop_fixed_point : runGenerations 204#8 0x0000000100000000#64 = [0x0000000100000000#64] := by decide

/-- P5, and vector L8: four rows. -/
theorem test_loop_falls_off_the_right :
    runGenerations 240#8 0x0000000000000004#64 = [4#64, 2#64, 1#64, 0#64] := by decide

/-- Scenario 3 of the source (S8): an invalid ruleset ends the run without the CORE. -/
theorem test_invalid_ruleset_rejected : (State.invoke ⟨.malformed, .missing⟩).validate.done = true
    ∧ (State.invoke ⟨.malformed, .missing⟩).validate.out = []
    ∧ step (State.invoke ⟨.malformed, .missing⟩).validate = .refused .runOver := by
  refine ⟨rfl, rfl, step_over rfl rfl⟩

/-! Witnesses: concrete states and operands that meet the hypotheses of a statement. -/

/-- A driver about to advance, for the witnesses. -/
def advancing (rule : Rule) (g : Generation) (n : Nat) : State :=
  { State.start rule g with n := n, phase := .advanceNext }

/-- A host that issues the requests `ws` directly. -/
def directly (ws : List Request) : State := { State.reset with caller := .direct, requests := ws }

theorem witness_DecodeOfEncode : (73 ≤ 73 ∧ 73 ≤ 80)
    ∧ decodeTableWord 73 (encode (.advance 6#64 30#8)).toNat = some (.advance 6#64 30#8)
    ∧ decodeTableWord 80 (encode (.render 6#64)).toNat = some (.render 6#64) := by decide

theorem witness_RequestWordBitByBit :
    (0x0FFFFFFFFFFFFFFFFFF#73 : Request).getLsbD 72 = false
      ∧ (0x1000000000000000000#73 : Request).getLsbD 72 = true := by decide

theorem witness_WordsOfEachInstruction :
    decode 0x05A8000000000000001#73 = .advance 0x8000000000000001#64 90#8
      ∧ decode 0x1FF4000000000000002#73 = .render 0x4000000000000002#64
      ∧ requestWord 1#1 0xFF#8 2#64 = requestWord 1#1 0xFF#8 2#64 := by decide

theorem witness_NumberedWordRefusedOnlyWhenWider :
    (2 ^ 73 - 1) % 2 ^ 80 < 2 ^ 73 ∧ 2 ^ 73 ≤ 2 ^ 73 % 2 ^ 80 := by decide

theorem witness_StepRunsTheDecodedInstruction :
    ((directly [0x05A8000000000000001#73]).caller = .direct
      ∧ (directly [0x05A8000000000000001#73]).requests = 0x05A8000000000000001#73 :: [])
    ∧ (State.reset.caller = .driver ∧ State.reset.done = false ∧ State.reset.phase = .renderNext)
    ∧ ((advancing 30#8 6#64 1).caller = .driver ∧ (advancing 30#8 6#64 1).done = false
      ∧ (advancing 30#8 6#64 1).phase = .advanceNext) := by decide

theorem witness_PresentedWordRunsNext :
    decodeTableWord 80 0x0FF0000000000000000 = some (.advance 0#64 255#8) := by decide

/-- Cell 0 and cell 63, where the clauses of the closed form meet. -/
theorem witness_AdvanceCellByCell : 0 < 64 ∧ 63 < 64
    ∧ (advance 0xFFFFFFFFFFFFFFFF#64 64#8).getLsbD 0 = true
    ∧ (advance 0xFFFFFFFFFFFFFFFF#64 8#8).getLsbD 63 = true := by decide

/-- Vectors A9 to A12: the edge cells and a middle one of an all-alive generation. -/
theorem witness_RuleFieldsByNeighbourhood :
    (0 < 64 ∧ 62 < 64 ∧ 63 < 64) ∧ (leftOf 0xFFFFFFFFFFFFFFFF#64 63, rightOf 0xFFFFFFFFFFFFFFFF#64 63) = (false, true)
      ∧ (leftOf 0xFFFFFFFFFFFFFFFF#64 0, rightOf 0xFFFFFFFFFFFFFFFF#64 0) = (true, false)
      ∧ (leftOf 0xFFFFFFFFFFFFFFFF#64 62, rightOf 0xFFFFFFFFFFFFFFFF#64 62) = (true, true) := by decide

theorem witness_LookupReadsTheRuleBit : 0 < 64 ∧ 63 < 64 ∧ ruleBit 16#8 (codeOfIndex 2#64 0) = 1#1
    ∧ ruleBit 4#8 (codeOfIndex 0x8000000000000000#64 63) = 1#1 := by decide

/-- The first iteration, the one of cell 63, and the discarded one. -/
theorem witness_CodesOfTheIterations : (1 ≤ 1 ∧ 1 ≤ 64) ∧ (1 ≤ 63 ∧ 63 ≤ 64) ∧ (1 ≤ 64 ∧ 64 ≤ 64)
    ∧ (codeOfIteration 6#64 1).toNat = 6 ∧ (codeOfIteration 0xFFFFFFFFFFFFFFFF#64 63).toNat = 3
    ∧ (codeOfIteration 0xFFFFFFFFFFFFFFFF#64 64).toNat = 1 := by decide

theorem witness_ShiftsAtTheEdges : 64 ≤ 63 + 1 ∧ (1 ≤ 1 ∧ 1 ≤ 63) ∧ (1 ≤ 63 ∧ 63 ≤ 63)
    ∧ shl64 (zext64 1#1) 63 = 0x8000000000000000#64 ∧ shl64 (zext64 1#1) 64 = 0#64 := by decide

/-- Two different generations that agree around cell 0 and around cell 63, and two different rules that agree on the
bits that count. -/
theorem witness_LocalityOfAdvance :
    (leftOf 8#64 0 = leftOf 0#64 0 ∧ (8#64).getLsbD 0 = (0#64).getLsbD 0 ∧ rightOf 8#64 0 = rightOf 0#64 0)
    ∧ (leftOf 8#64 63 = leftOf 0#64 63 ∧ (8#64).getLsbD 63 = (0#64).getLsbD 63 ∧ rightOf 8#64 63 = rightOf 0#64 63)
    ∧ (∀ k < 8, k % 2 = 0 → (2#8).getLsbD k = (0#8).getLsbD k)
    ∧ (∀ k < 4, (16#8).getLsbD k = (0#8).getLsbD k) := by decide

/-- The last generation with a live cell, and the first without. -/
theorem witness_LeftEdgeDecay : 63 ≤ 63 ∧ 64 ≤ 64 ∧ (1#64 <<< (63 - 63) : Generation) = 1#64 := by decide

theorem witness_AdvanceCornerCases : advance 0x0000000100000000#64 4#8 = 0x0000000100000000#64 ∧ 61 < 62
    ∧ 0 < 64 ∧ 63 < 64 := by decide

theorem witness_RenderAppendsOneRow : 0 < 64 ∧ 63 < 64
    ∧ (row 1#64)[63]? = some (.glyph .alive) ∧ (row 0x8000000000000000#64)[0]? = some (.glyph .alive) := by decide

theorem witness_RowDeterminesGeneration :
    (exec (.render 5#64) State.reset = .next { State.reset with out := row 5#64 }
      ∧ exec (.render 5#64) State.reset = .next { State.reset with out := row 5#64 })
    ∧ (63 < 64 ∧ (5#64).getLsbD (63 - 63) = (1#64).getLsbD (63 - 63)) := by
  refine ⟨⟨exec_render _ _, exec_render _ _⟩, by decide⟩

theorem witness_RenderCornerCases : 0 < 64 ∧ 63 < 64 := by decide

theorem witness_SinkReceivesTheRow : SinkAcceptsEveryToken (fun ts => ts) := fun _ => rfl

theorem witness_EveryTokenComesFromRender :
    step (directly [0x1000000000000000001#73]) = .next { directly [] with out := row 1#64 }
      ∧ turn (directly [0x05A8000000000000001#73]) = .request 0x05A8000000000000001#73 (directly []) := by
  refine ⟨?_, rfl⟩
  rw [step_direct (w := 0x1000000000000000001#73) (ws := []) rfl rfl]
  have h : decode 0x1000000000000000001#73 = .render 1#64 := by decide
  rw [h, exec_render]
  rfl

theorem witness_OutputStaysWholeRows :
    OutIsRows { directly [0x1000000000000000001#73] with out := row 0#64 }
      ∧ step { directly [0x1000000000000000001#73] with out := row 0#64 }
        = .next { directly [] with out := row 0#64 ++ row 1#64 } := by
  refine ⟨⟨[0#64], by simp⟩, ?_⟩
  rw [step_direct (w := 0x1000000000000000001#73) (ws := []) rfl rfl]
  have h : decode 0x1000000000000000001#73 = .render 1#64 := by decide
  rw [h, exec_render]
  rfl

theorem witness_DirectRequestsTakeEffectInOrder :
    (directly [0x05A8000000000000001#73, 0x1FF4000000000000002#73, 0x0334000000000000002#73]).caller = .direct
      ∧ (directly [0x05A8000000000000001#73, 0x1FF4000000000000002#73, 0x0334000000000000002#73]).requests
        = [0x05A8000000000000001#73, 0x1FF4000000000000002#73] ++ [0x0334000000000000002#73] := ⟨rfl, rfl⟩

/-- With rule 0 and with another. -/
theorem witness_DriverRenderStep :
    (State.reset.caller = .driver ∧ State.reset.done = false ∧ State.reset.phase = .renderNext
      ∧ State.reset.rule = 0#8)
    ∧ ((State.start 30#8 6#64).caller = .driver ∧ (State.start 30#8 6#64).done = false
      ∧ (State.start 30#8 6#64).phase = .renderNext ∧ (State.start 30#8 6#64).rule ≠ 0#8) := by decide

/-- At a fixed point, at the cap, and at neither. -/
theorem witness_DriverAdvanceStep :
    ((advancing 204#8 6#64 1).caller = .driver ∧ (advancing 204#8 6#64 1).done = false
      ∧ (advancing 204#8 6#64 1).phase = .advanceNext ∧ advance 6#64 204#8 = 6#64)
    ∧ ((advancing 30#8 6#64 32).phase = .advanceNext ∧ (advancing 30#8 6#64 32).n = 32)
    ∧ ((advancing 30#8 6#64 31).phase = .advanceNext ∧ advance 6#64 30#8 ≠ 6#64 ∧ (advancing 30#8 6#64 31).n ≠ 32) := by
  decide

theorem witness_FixedPointStopsTheDriver : (4#8 : Rule) ≠ 0#8
    ∧ advance 0x0000000100000000#64 4#8 = 0x0000000100000000#64
    ∧ (advancing 4#8 0x0000000100000000#64 1).phase = .advanceNext
    ∧ advance (advancing 30#8 6#64 31).cur (advancing 30#8 6#64 31).rule ≠ (advancing 30#8 6#64 31).cur
    ∧ (advancing 30#8 6#64 31).n ≠ 32 := by decide

/-- Rule 51, the complement, never reaches a fixed point from 0. -/
theorem complement_never_fixed (m : Nat) : generation 51#8 0#64 (m + 1) ≠ generation 51#8 0#64 m := by
  have h0 : advance 0#64 51#8 = 0xFFFFFFFFFFFFFFFF#64 := by decide
  have h1 : advance 0xFFFFFFFFFFFFFFFF#64 51#8 = 0#64 := by decide
  have h : generation 51#8 0#64 m = 0#64 ∨ generation 51#8 0#64 m = 0xFFFFFFFFFFFFFFFF#64 := by
    induction m with
    | zero => exact .inl rfl
    | succ m ih => rcases ih with h | h <;> simp only [generation, h, h0, h1] <;> decide
  rcases h with h | h <;> simp only [generation, h, h0, h1] <;> decide

theorem witness_AtMostThirtyTwoRows : core.run 0 (State.start 51#8 0#64) = .next (State.start 51#8 0#64)
    ∧ (51#8 : Rule) ≠ 0#8 ∧ ∀ m < 31, generation 51#8 0#64 (m + 1) ≠ generation 51#8 0#64 m :=
  ⟨rfl, by decide, fun m _ => complement_never_fixed m⟩

theorem witness_StepKeepsRunInv : RunInv [] (State.start 30#8 6#64) ∧ ∃ t, step (State.start 30#8 6#64) = .next t := by
  refine ⟨⟨rfl, fun _ => rfl, rfl, rfl, fun h => absurd h (by decide), ?_⟩, _, step_render rfl rfl rfl⟩
  simp [AtRender, generation, NoFixedPointBefore]

/-- Rule 0; a fixed point at the start; none below 32. -/
theorem witness_WhatARunPrints :
    (0#8 : Rule) = 0#8
    ∧ ((204#8 : Rule) ≠ 0#8 ∧ generation 204#8 6#64 (0 + 1) = generation 204#8 6#64 0
      ∧ ∀ m < 0, generation 204#8 6#64 (m + 1) ≠ generation 204#8 6#64 m)
    ∧ ((51#8 : Rule) ≠ 0#8 ∧ ∀ m < 32, generation 51#8 0#64 (m + 1) ≠ generation 51#8 0#64 m) :=
  ⟨rfl, ⟨by decide, by decide, nofun⟩, by decide, fun m _ => complement_never_fixed m⟩

/-- A run that has ended, and one that has not. -/
theorem witness_NormalRunExitsZero :
    (∃ t, core.run 1 (State.start 0#8 6#64) = .next t ∧ t.done = true)
    ∧ ∃ t, core.run 1 (State.start 30#8 6#64) = .next t ∧ t.done = false :=
  ⟨⟨_, (run_step (step_render rfl rfl rfl) 0).trans (run_zero _), rfl⟩,
    ⟨_, (run_step (step_render rfl rfl rfl) 0).trans (run_zero _), rfl⟩⟩

/-- The driver stopped and not; the direct host with and without a request. -/
theorem witness_StepStopsOnlyWhenNothingIsLeft :
    ({ State.reset with done := true }.caller = .driver ∧ { State.reset with done := true }.done = true)
    ∧ ((directly []).caller = .direct ∧ (directly []).requests = [])
    ∧ (State.reset.caller = .driver ∧ State.reset.done = false)
    ∧ ((directly [0#73]).caller = .direct ∧ (directly [0#73]).requests ≠ []) := by
  refine ⟨⟨rfl, rfl⟩, ⟨rfl, rfl⟩, ⟨rfl, rfl⟩, ⟨rfl, by decide⟩⟩

/-- Both inputs at the top of their ranges; a wrong `ruleset` beside an admissible seed; a wrong seed. -/
theorem witness_ValidationContract :
    ((State.invoke ⟨.number 255, .number (2 ^ 64 - 1)⟩).phase = .validate
      ∧ RulesetIs (.number 255) 255#8 ∧ SeedIs (.number (2 ^ 64 - 1)) 0xFFFFFFFFFFFFFFFF#64)
    ∧ ((State.invoke ⟨.number 256, .missing⟩).phase = .validate ∧ (¬ ∃ r, RulesetIs (.number 256) r)
      ∧ ∃ g, SeedIs .missing g)
    ∧ ¬ ∃ g, SeedIs (.number (2 ^ 64)) g := by
  refine ⟨⟨rfl, ?_, ?_⟩, ⟨rfl, ?_, ?_⟩, ?_⟩
  · exact (checkRuleset_eq_ok _ _).1 (by decide)
  · exact (checkSeed_eq_ok _ _).1 (by decide)
  · rintro ⟨r, v, h, _, hb, _⟩
    injection h with h
    omega
  · exact ⟨_, (checkSeed_eq_ok _ _).1 rfl⟩
  · rintro ⟨g, ⟨h, _⟩ | ⟨v, h, _, hb, _⟩⟩
    · cases h
    · injection h with h
      omega

/-- A driver's step, and one of a direct host. -/
theorem witness_InputsAreFixedForTheRun :
    ((∃ t, step (State.start 30#8 6#64) = .next t) ∧ (State.start 30#8 6#64).phase ≠ .validate)
    ∧ (∃ t, step (directly [0x05A8000000000000001#73]) = .next t)
    ∧ (directly [0x05A8000000000000001#73]).caller = .direct := by
  have h : step (directly [0x05A8000000000000001#73]) = exec (decode 0x05A8000000000000001#73) (directly []) :=
    step_direct rfl rfl
  have d : decode 0x05A8000000000000001#73 = .advance 0x8000000000000001#64 90#8 := by decide
  rw [d, exec_advance] at h
  exact ⟨⟨⟨_, step_render rfl rfl rfl⟩, by decide⟩, ⟨_, h⟩, rfl⟩

end Sys2Proof.Tests
end

section
/-! SUPPORT. The response of an operation is the operands' alone (R10). -/
namespace Sys2Proof.Machine

/-- ADVANCE in the form R10 speaks of: a value for the host, and no token added to `OUT` (R65). -/
theorem exec_advance_value_no_tokens (current : Generation) (rule : Rule) (s : State) :
    exec (.advance current rule) s = .next { s with next := advance current rule, out := s.out ++ [] } := by
  rw [exec_advance, List.append_nil, State.respond]

/-- Settles O9: the value is the next generation for ADVANCE and none for RENDER, the tokens are none for ADVANCE and
the row for RENDER, each chosen before the state is given. -/
theorem responseDependsOnOperandsOnly : Obligations.ResponseDependsOnOperandsOnly := by
  intro i
  cases i with
  | advance current rule =>
    exact ⟨some (advance current rule), [], exec_advance_value_no_tokens current rule, rfl, rfl⟩
  | render generation =>
    exact ⟨none, row generation, exec_render generation, rfl, row_length generation⟩

end Sys2Proof.Machine
end

section
/-! SUPPORT. Repeating an operation (R41): a response replaces the one before it, a row is appended to those before it. -/
namespace Sys2Proof.Machine

@[simp] theorem respond_respond (g h : Generation) (s : State) : (s.respond h).respond g = s.respond g := rfl

/-- A row has tokens, so a state that gains one is another state (R51, R92). -/
theorem append_row_ne (g : Generation) (s : State) : { s with out := s.out ++ row g } ≠ s := by
  intro h
  have hout : s.out ++ row g = s.out := congrArg State.out h
  have hlen := congrArg List.length hout
  rw [List.length_append, row_length] at hlen
  omega

/-- Settles O10: the second ADVANCE overwrites the response with the same value, the second RENDER lengthens `OUT`. -/
theorem advanceRepeatsRenderAppendsAgain : Obligations.AdvanceRepeatsRenderAppendsAgain := by
  constructor
  · intro current rule s
    refine ⟨s.respond (advance current rule), exec_advance current rule s, ?_⟩
    rw [exec_advance, respond_respond]
  · intro generation s
    exact ⟨_, _, exec_render generation s, exec_render generation _, rfl, rfl, append_row_ne generation _⟩

end Sys2Proof.Machine
end

section
/-! SUPPORT. The neighbourhood codes of R48 and R49 and the lookup of R50, as the spec writes them on whole words, and
the lookup of every result bit of the procedure. -/
namespace Sys2Proof.Machine

/-- The three low bits by the mask of R6. -/
theorem low3_eq_and_seven (v : Generation) : low3 v = (v &&& 7#64).setWidth 3 := by
  have seven : ∀ i < 3, (7#64).getLsbD i = true := by decide
  apply BitVec.eq_of_getLsbD_eq
  intro i hi
  rw [BitVec.getLsbD_setWidth, BitVec.getLsbD_and, seven i hi]
  simp [low3, hi]

/-- With no right neighbour the code is twice a number below 4 (R48). -/
theorem codeNumber_right_dead_mem (left centre : Bool) : codeNumber left centre false ∈ [0, 2, 4, 6] := by
  revert left centre
  decide

/-- Settles O16: the code is the three low bits of the operand shifted left, and its right neighbour is dead. The
obligation's own name in lower case is the model's definition. -/
theorem codeOfCellZero_spec : Obligations.CodeOfCellZero := by
  intro current
  have hmem := codeNumber_right_dead_mem (current.getLsbD 1) (current.getLsbD 0)
  rw [← codeOfCellZero_toNat] at hmem
  exact ⟨low3_eq_and_seven (shl64 current 1), codeOfCellZero_toNat current, hmem⟩

/-- A guard that fails only for indices from 64 up may be dropped: there is no cell there, so the bit is 0 (R45). -/
theorem ite_getLsbD (g : Generation) {c : Prop} [Decidable c] {i : Nat} (h : ¬c → 64 ≤ i) :
    (if c then g.getLsbD i else false) = g.getLsbD i := by
  split
  · rfl
  · next hc => exact (BitVec.getLsbD_of_ge g i (h hc)).symm

/-- Without a left neighbour the code is at most 3 (R49). -/
theorem codeNumber_left_dead_le (centre right : Bool) : codeNumber false centre right ≤ 3 := by
  revert centre right
  decide

/-- With neither a left neighbour nor the cell itself the code is at most 1 (R49). -/
theorem codeNumber_right_only_le (right : Bool) : codeNumber false false right ≤ 1 := by
  revert right
  decide

/-- Settles O17: the code is the three low bits of the operand shifted right, and cells from index 64 up are dead. -/
theorem codesOfTheIterations : Obligations.CodesOfTheIterations := by
  intro current j h1 _
  have hcode := codeOfIteration_toNat current j h1
  refine ⟨low3_eq_and_seven (shr64 current (j - 1)), ?_, ?_, ?_⟩
  · rw [ite_getLsbD current (by omega), ite_getLsbD current (by omega), hcode, codeNumber]
  · rintro rfl
    rw [hcode, BitVec.getLsbD_of_ge current (63 + 1) (by omega)]
    exact codeNumber_left_dead_le _ _
  · rintro rfl
    rw [hcode, BitVec.getLsbD_of_ge current (64 + 1) (by omega), BitVec.getLsbD_of_ge current 64 (by omega)]
    exact codeNumber_right_only_le _

/-- The lookup gives 1 exactly where the rule has a 1 (R50). -/
theorem ruleBit_eq_one_iff (r : Rule) (k : Code) : ruleBit r k = 1#1 ↔ r.getLsbD k.toNat = true := by
  rw [ruleBit_eq]
  cases r.getLsbD k.toNat <;> decide

/-- The lookup as a shift of the rule and a mask (R50). -/
theorem ruleBit_setWidth (r : Rule) (k : Code) : (ruleBit r k).setWidth 8 = (r >>> k.toNat) &&& 1#8 := by
  apply BitVec.eq_of_getLsbD_eq
  intro i hi
  rw [ruleBit_eq, BitVec.getLsbD_and, BitVec.getLsbD_ushiftRight]
  by_cases h : i = 0
  · subst h
    simp
  · simp [h]

/-- Step 1 of the procedure sets bit 0 and no other (R68). -/
theorem zext64_ruleBit_getLsbD (r : Rule) (k : Code) (i : Nat) :
    (zext64 (ruleBit r k)).getLsbD i = (decide (i = 0) && r.getLsbD k.toNat) := by
  rw [ruleBit_eq]
  cases r.getLsbD k.toNat <;> simp [zext64]

/-- Bit `i` of the result is the rule bit that the code of index `i` selects (R50, R68). -/
theorem advance_getLsbD (g : Generation) (r : Rule) (i : Nat) (hi : i < 64) :
    (advance g r).getLsbD i = r.getLsbD (codeOfIndex g i).toNat := by
  rw [advance, BitVec.zero_or, advanceLoop_getLsbD r 64 1 _ _ i hi, zext64_ruleBit_getLsbD]
  by_cases h0 : i = 0
  · subst h0
    simp [codeOfIndex]
  · have e1 : i - 1 + 1 = i := by omega
    have e2 : i - 1 + 2 = i + 1 := by omega
    have hiter : 1 ≤ i ∧ i < 1 + 64 := by omega
    simp [codeOfIndex, codeOfIteration_toNat g i hiter.1, h0, e1, e2, hiter]

/-- Settles O18: the lookup is bit number `code` of the rule, and so is every result bit. -/
theorem lookupReadsTheRuleBit : Obligations.LookupReadsTheRuleBit := by
  constructor
  · intro rule code
    exact ⟨ruleBit_setWidth rule code, ruleBit_eq_one_iff rule code⟩
  · intro current rule i hi
    rw [advance_getLsbD current rule i hi, ruleBit_eq_one_iff]

end Sys2Proof.Machine
end

section
/-! SUPPORT. RENDER's tokens, each by its position (R51, R91, R92). -/
namespace Sys2Proof.Machine

/-- Settles O28: the tokens are the row of the generation. -/
theorem renderAppendsOneRow : Obligations.RenderAppendsOneRow := by
  intro generation s
  exact ⟨row generation, exec_render generation s, row_length generation, row_glyph generation, row_terminator generation⟩

end Sys2Proof.Machine
end

section
/-! SUPPORT. The procedure of R68 with machine shifts and masks on 64-bit words: the lookup, one iteration, and the loop
as a fold over the iteration numbers. -/
namespace Sys2Proof.Machine

/-- The looked-up bit as a 64-bit word, by a shift of the rule and two masks (R50, R68). -/
def wordLookup (rule : Rule) (v : Generation) : Generation := (rule.setWidth 64 >>> (v &&& 7#64).toNat) &&& 1#64

/-- Iteration `j` on the pair of result and working value: look up, set bit `j`, shift the working value (R68). -/
def wordIteration (rule : Rule) (p : Generation × Generation) (j : Nat) : Generation × Generation :=
  (p.1 ||| (wordLookup rule p.2 <<< j), p.2 >>> 1)

/-- The mask leaves the number of the code: no bit above bit 2 is left (R6). -/
theorem and_seven_toNat (v : Generation) : (v &&& 7#64).toNat = (low3 v).toNat := by
  have hle : (v &&& 7#64).toNat ≤ 7 := by
    rw [BitVec.toNat_and]
    exact Nat.and_le_right
  rw [low3_eq_and_seven, BitVec.toNat_setWidth, Nat.mod_eq_of_lt (by omega)]

theorem wordLookup_eq (rule : Rule) (v : Generation) : wordLookup rule v = zext64 (ruleBit rule (low3 v)) := by
  apply BitVec.eq_of_getLsbD_eq
  intro i hi
  rw [wordLookup, and_seven_toNat, zext64_ruleBit_getLsbD, BitVec.getLsbD_and, BitVec.getLsbD_ushiftRight]
  by_cases h : i = 0
  · subst h
    have hcode := (low3 v).isLt
    have h64 : (low3 v).toNat < 64 := by omega
    simp [h64]
  · simp [h]

/-- The model's loop is the fold of the word iteration over its iteration numbers (R68). -/
theorem advanceLoop_eq_foldl (rule : Rule) (k j : Nat) (w acc : Generation) :
    advanceLoop rule k j w acc = ((List.range' j k).foldl (wordIteration rule) (acc, w)).1 := by
  induction k generalizing j w acc with
  | zero => rfl
  | succ k ih =>
    rw [advanceLoop, ih, List.range'_succ, List.foldl_cons, wordIteration, wordLookup_eq, shl64, shr64]

/-- ADVANCE on words: step 1 looks up with the operand shifted left, step 2 folds the 64 iterations (R68). -/
theorem advance_eq_foldl (current : Generation) (rule : Rule) :
    advance current rule
      = ((List.range' 1 64).foldl (wordIteration rule) (wordLookup rule (current <<< 1), current)).1 := by
  rw [advance, advanceLoop_eq_foldl, BitVec.zero_or, codeOfCellZero, ← wordLookup_eq, shl64]

/-- Settles O11: the model's loop is the fold, and the obligation writes the word lookup and iteration out. -/
theorem advanceIsTheDocumentsProcedure : Obligations.AdvanceIsTheDocumentsProcedure := by
  intro current rule s
  rw [exec_advance, advance_eq_foldl]
  rfl

end Sys2Proof.Machine
end

section
/-! SUPPORT. The 64th iteration (R69) and the single loop over the neighbourhoods (R80), bit by bit. -/
namespace Sys2Proof.Machine

theorem advanceSingleLoop_succ (g : Generation) (r : Rule) (k : Nat) :
    advanceSingleLoop g r (k + 1) = advanceSingleLoop g r k ||| shl64 (zext64 (ruleBit r (codeOfIndex g k))) k := by
  simp only [advanceSingleLoop, List.range_succ, List.foldl_append, List.foldl_cons, List.foldl_nil]

/-- The first `k` neighbourhoods set the bits below `k`, each to the rule bit its code selects (R80). -/
theorem advanceSingleLoop_getLsbD (g : Generation) (r : Rule) (k i : Nat) (hi : i < 64) :
    (advanceSingleLoop g r k).getLsbD i = (decide (i < k) && r.getLsbD (codeOfIndex g i).toNat) := by
  induction k with
  | zero => simp [advanceSingleLoop]
  | succ k ih =>
    rw [advanceSingleLoop_succ, BitVec.getLsbD_or, ih, ruleBit_eq, placed_getLsbD]
    by_cases h : i = k
    · subst h
      simp [hi]
    · have hlt : i < k + 1 ↔ i < k := by omega
      simp [h, hlt]

/-- The single loop is the procedure as soon as it reaches index 63; whatever comes after is discarded (R69, R80). -/
theorem advance_eq_advanceSingleLoop (g : Generation) (r : Rule) (k : Nat) (hk : 64 ≤ k) :
    advance g r = advanceSingleLoop g r k := by
  apply BitVec.eq_of_getLsbD_eq
  intro i hi
  have hik : i < k := by omega
  rw [advance_getLsbD g r i hi, advanceSingleLoop_getLsbD g r k i hi, decide_eq_true hik, Bool.true_and]

/-- The 64th iteration would set bit 64 only, which does not exist (R69). -/
theorem advance_eq_advanceShort (g : Generation) (r : Rule) : advance g r = advanceShort g r := by
  apply BitVec.eq_of_getLsbD_eq
  intro i hi
  have hlast : (1 ≤ i ∧ i < 1 + 64) ↔ (1 ≤ i ∧ i < 1 + 63) := by omega
  rw [advance, advanceShort, advanceLoop_getLsbD r 64 1 _ _ i hi, advanceLoop_getLsbD r 63 1 _ _ i hi,
    decide_eq_decide.mpr hlast]

/-- The code of index 64: neither a left neighbour nor the cell itself exists (R69). -/
theorem codeOfIteration_last_toNat (g : Generation) : (codeOfIteration g 64).toNat = (g.getLsbD 63).toNat := by
  rw [codeOfIteration_toNat g 64 (by omega), BitVec.getLsbD_of_ge g (64 + 1) (by omega),
    BitVec.getLsbD_of_ge g 64 (by omega)]
  simp [codeNumber]

/-- The spec's example: cell 63 alone would light index 64 under rule 90, and that bit is discarded (R69). -/
theorem advance_discards_index_64_rule_90 :
    advance 0x8000000000000001#64 90#8 = 0x4000000000000002#64 := by decide

/-- Settles O15: every form sets the 64 bits alike, and what it does at index 64 reaches no bit of the result. -/
theorem lastIterationContributesNothing : Obligations.LastIterationContributesNothing := by
  constructor
  · intro current rule
    exact ⟨codeOfIteration_last_toNat current, advance_eq_advanceShort current rule,
      advance_eq_advanceSingleLoop current rule 64 (by omega), advance_eq_advanceSingleLoop current rule 65 (by omega)⟩
  · intro s
    rw [exec_advance, advance_discards_index_64_rule_90, State.respond]

end Sys2Proof.Machine
end

section
/-! SUPPORT. The two constant rules: the lookup does not depend on the code (R74). -/
namespace Sys2Proof.Machine

/-- Under rule 0 every neighbourhood maps to dead (R74). -/
theorem advance_rule_zero (g : Generation) : advance g 0#8 = 0#64 := by
  apply BitVec.eq_of_getLsbD_eq
  intro i hi
  rw [advance_getLsbD g _ i hi, BitVec.getLsbD_zero, BitVec.getLsbD_zero]

/-- Under rule 255 every neighbourhood maps to alive: a code is below 8 (R74). -/
theorem advance_rule_allOnes (g : Generation) : advance g (BitVec.allOnes 8) = BitVec.allOnes 64 := by
  apply BitVec.eq_of_getLsbD_eq
  intro i hi
  have hcode : (codeOfIndex g i).toNat < 8 := (codeOfIndex g i).isLt
  rw [advance_getLsbD g _ i hi, BitVec.getLsbD_allOnes, BitVec.getLsbD_allOnes, decide_eq_true hcode,
    decide_eq_true hi]

/-- Settles O20: the response is constant because every result bit is. -/
theorem constantRules : Obligations.ConstantRules := by
  intro g s
  constructor
  · rw [exec_advance, advance_rule_zero, State.respond]
  · have h : advance g 255#8 = 0xFFFFFFFFFFFFFFFF#64 := advance_rule_allOnes g
    rw [exec_advance, h, State.respond]

end Sys2Proof.Machine
end

section
/-! SUPPORT. The code of every index as its neighbourhood, the result bits at the two ends, and which cells they do not
depend on (R70, R72, R75). -/
namespace Sys2Proof.Machine

/-- The code of index `i` is its neighbourhood's, where a neighbour that does not exist is dead (R48, R49, R70). -/
theorem codeOfIndex_toNat (g : Generation) (i : Nat) :
    (codeOfIndex g i).toNat = codeNumber (leftOf g i) (g.getLsbD i) (rightOf g i) := by
  by_cases h0 : i = 0
  · subst h0
    exact codeOfCellZero_toNat g
  · have h1 : 1 ≤ i := by omega
    have hleft : leftOf g i = g.getLsbD (i + 1) := ite_getLsbD g (by omega)
    rw [codeOfIndex, if_neg h0, codeOfIteration_toNat g i h1, hleft, rightOf, if_pos h1]

/-- Every result bit is the rule bit of its neighbourhood (R70). -/
theorem advance_getLsbD_neighbourhood (g : Generation) (r : Rule) (i : Nat) (hi : i < 64) :
    (advance g r).getLsbD i = r.getLsbD (codeNumber (leftOf g i) (g.getLsbD i) (rightOf g i)) := by
  rw [advance_getLsbD g r i hi, codeOfIndex_toNat]

/-- Cell 0 has no right neighbour (R72, R75). -/
theorem advance_getLsbD_rightmost (g : Generation) (r : Rule) :
    (advance g r).getLsbD 0 = r.getLsbD (codeNumber (g.getLsbD 1) (g.getLsbD 0) false) :=
  advance_getLsbD_neighbourhood g r 0 (by omega)

/-- Cell 63 has no left neighbour (R72). -/
theorem advance_getLsbD_leftmost (g : Generation) (r : Rule) :
    (advance g r).getLsbD 63 = r.getLsbD (codeNumber false (g.getLsbD 63) (g.getLsbD 62)) :=
  advance_getLsbD_neighbourhood g r 63 (by omega)

/-- Flipping cells of `m` leaves every cell outside `m` as it was. -/
theorem xor_getLsbD_of_false (g : Generation) {m : Generation} {i : Nat} (h : m.getLsbD i = false) :
    (g ^^^ m).getLsbD i = g.getLsbD i := by
  rw [BitVec.getLsbD_xor, h, Bool.xor_false]

/-- With cell 1 alone alive, cell 0 has the neighbourhood of code 4 (R75). -/
theorem advance_two_getLsbD_rightmost (r : Rule) : (advance 0b10#64 r).getLsbD 0 = r.getLsbD 4 :=
  advance_getLsbD_rightmost 0b10#64 r

/-- Settles O21: the code of cell 0 has no right neighbour, and for the operand 2 it is 4. -/
theorem rightmostBit : Obligations.RightmostBit := by
  intro current rule
  have hshift : ((rule >>> ((0b10 <<< 1) &&& 0x7)) &&& 1#8).getLsbD 0 = rule.getLsbD 4 := by
    rw [BitVec.getLsbD_and, BitVec.getLsbD_ushiftRight]
    exact Bool.and_true _
  exact ⟨advance_getLsbD_rightmost current rule, (advance_two_getLsbD_rightmost rule).trans hshift.symm,
    advance_two_getLsbD_rightmost rule⟩

/-- Settles O22: the end cells read two cells each, and neither of them is the other end. -/
theorem noWraparound : Obligations.NoWraparound := by
  intro g rule
  refine ⟨advance_getLsbD_rightmost g rule, advance_getLsbD_leftmost g rule, ?_, ?_⟩
  · rw [advance_getLsbD_rightmost, advance_getLsbD_rightmost, xor_getLsbD_of_false g (by decide),
      xor_getLsbD_of_false g (by decide)]
  · rw [advance_getLsbD_leftmost, advance_getLsbD_leftmost, xor_getLsbD_of_false g (by decide),
      xor_getLsbD_of_false g (by decide)]

end Sys2Proof.Machine
end

section
/-! SUPPORT. Where the tokens of `OUT` come from (R111): the host's own actions add none, and the turn of the host names
the request whose operation adds a row. -/
namespace Sys2Proof.Machine

section
variable {s : State}

/-- The collaborator writes nothing to `OUT`, whether it accepts or rejects (R109, R111). -/
@[simp] theorem validate_out : s.validate.out = s.out := by
  cases h : checkArgs s.args <;> simp [State.validate, h]

@[simp] theorem afterRender_out : (afterRender s).out = s.out := by
  by_cases h : s.rule = 0#8
  · rw [afterRender_zero h, finish_out, countRow_out]
  · rw [afterRender_nonzero h, enterPhase_out, countRow_out]

@[simp] theorem afterAdvance_out : (afterAdvance s).out = s.out := by
  by_cases h : s.next = s.cur ∨ s.n = 32
  · rw [afterAdvance_stop h, finish_out]
  · obtain ⟨hne, hn⟩ := not_or.1 h
    rw [afterAdvance_continue hne hn, enterPhase_out, replaceCur_out]

theorem turn_validate (hc : s.caller = .driver) (hd : s.done = false) (hp : s.phase = .validate) :
    turn s = .own s.validate := by
  simp [turn, driverTurn, hc, hd, hp]

theorem turn_render (hc : s.caller = .driver) (hd : s.done = false) (hp : s.phase = .renderNext) :
    turn s = .request (encode (.render s.cur)) s := by
  simp [turn, driverTurn, hc, hd, hp]

theorem turn_advance (hc : s.caller = .driver) (hd : s.done = false) (hp : s.phase = .advanceNext) :
    turn s = .request (encode (.advance s.cur s.rule)) s := by
  simp [turn, driverTurn, hc, hd, hp]

theorem turn_direct {w : Request} {ws : List Request} (hc : s.caller = .direct) (hr : s.requests = w :: ws) :
    turn s = .request w (s.withRequests ws) := by
  simp [turn, directTurn, hc, hr]

/-- Every request of a host whose turn issues an ADVANCE is an ADVANCE: a turn issues one request (R12). -/
theorem requests_advance_of_turn {w : Request} {u : State} {g : Generation} {r : Rule} (ht : turn s = .request w u)
    (hw : decode w = .advance g r) (w' : Request) (u' : State) (ht' : turn s = .request w' u') :
    ∃ current rule, decode w' = .advance current rule := by
  obtain ⟨rfl, -⟩ := Turn.request.inj (ht.symm.trans ht')
  exact ⟨g, r, hw⟩

end

/-- Settles O33: of everything a step can be, only the driver's RENDER and a RENDER issued directly add tokens. -/
theorem everyTokenComesFromRender : Obligations.EveryTokenComesFromRender := by
  intro s t h
  obtain ⟨hc, hd, hp, rfl⟩ | ⟨hc, hd, hp, rfl⟩ | ⟨hc, hd, hp, rfl⟩ | ⟨hc, w, ws, g, hr, hw, rfl⟩
    | ⟨hc, w, ws, g, r, hr, hw, rfl⟩ := step_next_cases h
  · refine .inl ⟨validate_out, fun w u ht => ?_⟩
    rw [turn_validate hc hd hp] at ht
    cases ht
  · exact .inr ⟨_, _, s.cur, turn_render hc hd hp, decode_render 0#8 s.cur, afterRender_out⟩
  · exact .inl ⟨afterAdvance_out, requests_advance_of_turn (turn_advance hc hd hp) (decode_advance s.rule s.cur)⟩
  · exact .inr ⟨w, _, g, turn_direct hc hr, hw, rfl⟩
  · exact .inl ⟨rfl, requests_advance_of_turn (turn_direct hc hr) hw⟩

end Sys2Proof.Machine
end

section
/-! SUPPORT. The driver's loop of R103 against the step relation of R107: one round of the loop is two steps of the
machine, and by induction on the rounds left the machine prints the generations the loop renders. -/
namespace Sys2Proof.Machine

/-- Where a round of the loop begins (R103 step (a)): the driver is about to render, under a rule that is not 0. -/
structure AtRound (s : State) : Prop where
  driver : s.caller = .driver
  running : s.done = false
  renderNext : s.phase = .renderNext
  rule_ne_zero : s.rule ≠ 0#8

/-- The state after the RENDER and the ADVANCE of a round, before the host compares (R103 steps (a) and (b)). -/
def State.advanced (s : State) : State :=
  ({ s with out := s.out ++ row s.cur }.countRow.enterPhase .advanceNext).respond (advance s.cur s.rule)

/-- The state a round leaves when it does not stop (R103 step (d)). -/
def State.nextRound (s : State) : State := s.advanced.replaceCur.enterPhase .renderNext

/-- One round is two requests, and then the host's comparison (R103, R107). -/
theorem run_round {s : State} (h : AtRound s) : core.run 2 s = .next (afterAdvance s.advanced) := by
  have hrender : step s = .next ({ s with out := s.out ++ row s.cur }.countRow.enterPhase .advanceNext) :=
    (step_render h.driver h.running h.renderNext).trans (congrArg _ (afterRender_nonzero h.rule_ne_zero))
  have hadvance := step_advance (s := { s with out := s.out ++ row s.cur }.countRow.enterPhase .advanceNext)
    h.driver h.running rfl
  exact (run_step hrender 1).trans ((run_step hadvance 0).trans (run_zero _))

/-- A round that reaches a fixed point or the cap is the last one. -/
theorem run_last_round {s : State} (h : AtRound s) (hstop : advance s.cur s.rule = s.cur ∨ s.n + 1 = 32) :
    core.run 2 s = .next s.advanced.finish :=
  (run_round h).trans (congrArg _ (afterAdvance_stop hstop))

/-- A round that reaches neither is followed by another. -/
theorem run_nextRound {s : State} (h : AtRound s) (hne : advance s.cur s.rule ≠ s.cur) (hn : s.n + 1 ≠ 32) :
    core.run 2 s = .next s.nextRound :=
  (run_round h).trans (congrArg _ (afterAdvance_continue hne hn))

theorem atRound_nextRound {s : State} (h : AtRound s) : AtRound s.nextRound :=
  ⟨h.driver, h.running, rfl, h.rule_ne_zero⟩

theorem atRound_start {r : Rule} (g : Generation) (hr : r ≠ 0#8) : AtRound (State.start r g) :=
  ⟨rfl, rfl, rfl, hr⟩

/-- The loop's iteration that finds a fixed point renders one generation more (R104). -/
theorem loopGenerations_fixed {r : Rule} {g : Generation} (h : advance g r = g) (k : Nat) :
    loopGenerations r (k + 1) g = [g] := by
  rw [loopGenerations, if_pos (by simpa [fixedPoint] using h)]

/-- The loop's last iteration renders one generation more (R105). -/
theorem loopGenerations_one (r : Rule) (g : Generation) : loopGenerations r 1 g = [g] := by
  rw [loopGenerations, loopGenerations, ite_self]

/-- Any other iteration of the loop goes on from the next generation (R103 step (d)). -/
theorem loopGenerations_moving {r : Rule} {g : Generation} (h : advance g r ≠ g) (k : Nat) :
    loopGenerations r (k + 1) g = g :: loopGenerations r k (advance g r) := by
  rw [loopGenerations, if_neg (by simpa [fixedPoint] using h)]

/-- Within `k` steps the machine has stopped, and it has appended the tokens `ts` to `OUT`. -/
def StopsHavingAppended (k : Nat) (ts : List Token) (s : State) : Prop :=
  ∃ j ≤ k, ∃ t, core.run j s = .next t ∧ t.done = true ∧ t.out = s.out ++ ts

theorem stopsHavingAppended_last_round {s : State} (h : AtRound s)
    (hstop : advance s.cur s.rule = s.cur ∨ s.n + 1 = 32) {k : Nat} (hk : 2 ≤ k) :
    StopsHavingAppended k (row s.cur) s :=
  ⟨2, hk, _, run_last_round h hstop, rfl, rfl⟩

theorem stopsHavingAppended_nextRound {s : State} (h : AtRound s) (hne : advance s.cur s.rule ≠ s.cur)
    (hn : s.n + 1 ≠ 32) {k : Nat} {ts : List Token} (hrest : StopsHavingAppended k ts s.nextRound) :
    StopsHavingAppended (2 + k) (row s.cur ++ ts) s := by
  obtain ⟨j, hj, t, hrun, hdone, hout⟩ := hrest
  refine ⟨2 + j, by omega, t, (run_add (run_nextRound h hne hn) j).trans hrun, hdone, ?_⟩
  rw [← List.append_assoc]
  exact hout

/-- From the beginning of a round with `k + 1` rounds left up to the cap, the machine appends the rows of the
generations that as many iterations of the loop render, in at most two requests a round (R103). -/
theorem stopsHavingAppended_loop (k : Nat) : ∀ s : State, AtRound s → s.n + (k + 1) = 32 →
    StopsHavingAppended (2 * (k + 1)) ((loopGenerations s.rule (k + 1) s.cur).flatMap row) s := by
  induction k with
  | zero =>
    intro s h hn
    rw [loopGenerations_one, List.flatMap_singleton]
    exact stopsHavingAppended_last_round h (.inr hn) le_rfl
  | succ k ih =>
    intro s h hn
    by_cases hfix : advance s.cur s.rule = s.cur
    · rw [loopGenerations_fixed hfix, List.flatMap_singleton]
      exact stopsHavingAppended_last_round h (.inl hfix) (by omega)
    · have hleft : s.nextRound.n + (k + 1) = 32 := (Nat.add_right_comm s.n 1 (k + 1)).trans hn
      rw [loopGenerations_moving hfix, List.flatMap_cons, Nat.mul_succ 2 (k + 1), Nat.add_comm]
      exact stopsHavingAppended_nextRound h hfix (by omega) (ih s.nextRound (atRound_nextRound h) hleft)

/-- Settles O44: rule 0 stops the driver after one RENDER; for any other rule the run begins a loop of 32 rounds. -/
theorem runPrintsTheDriversLoop : Obligations.RunPrintsTheDriversLoop := by
  intro r g
  by_cases hr : r = 0#8
  · have hstep := (step_render (s := State.start r g) rfl rfl rfl).trans (congrArg _ (afterRender_zero hr))
    refine ⟨1, by decide, _, (run_step hstep 0).trans (run_zero _), rfl, ?_⟩
    rw [runGenerations, if_pos hr, List.flatMap_singleton]
    rfl
  · rw [runGenerations, if_neg hr]
    exact stopsHavingAppended_loop 31 (State.start r g) (atRound_start g hr) rfl

end Sys2Proof.Machine
end

section
/-! SUPPORT. Safety of the operations (R115): what `exec` answers in every state. -/
namespace Sys2Proof.Machine

/-- Every instruction has a next state, for every operand and in every state. -/
theorem exec_eq_next (i : Instr) (s : State) : ∃ t, exec i s = .next t := by
  cases i with
  | advance current rule => exact ⟨_, exec_advance current rule s⟩
  | render generation => exact ⟨_, exec_render generation s⟩

/-- Settles O8: the answer is a next state, so it is neither of the other two outcomes; `Fault` has no constructor. -/
theorem everyOperationSucceeds : Obligations.EveryOperationSucceeds := by
  refine ⟨fun i s => ?_, ⟨fun f => nomatch f⟩⟩
  obtain ⟨t, h⟩ := exec_eq_next i s
  refine ⟨⟨t, h⟩, fun f => ?_, fun r => ?_⟩
  · rw [h]
    nofun
  · rw [h]
    nofun

end Sys2Proof.Machine
end

section
/-! SUPPORT. The word of an instruction and its number (R53, R55, R59). -/
namespace Sys2Proof.Machine

/-- The encoder's word decodes to the instruction (R53, R55). -/
@[simp] theorem decode_encode (i : Instr) : decode (encode i) = i := by
  cases i with
  | advance current rule => exact decode_advance rule current
  | render generation => exact decode_render 0#8 generation

/-- No operand value is illegal (R54). -/
theorem instr_wellFormed (i : Instr) : i.wellFormed = true := by
  cases i with
  | advance current rule => rfl
  | render generation => rfl

theorem decodeNumber_of_lt {nbits w : Nat} (h : w % 2 ^ nbits < 2 ^ 73) :
    decodeNumber nbits w = .ok (decode (BitVec.ofNat 73 (w % 2 ^ nbits))) := by
  rw [decodeNumber, if_pos h]

theorem decodeNumber_of_ge {nbits w : Nat} (h : 2 ^ 73 ≤ w % 2 ^ nbits) :
    decodeNumber nbits w = .error .widerThanRequest := by
  rw [decodeNumber, if_neg (Nat.not_lt.mpr h)]

theorem decodeTableWord_of_lt {nbits w : Nat} (h : w % 2 ^ nbits < 2 ^ 73) :
    decodeTableWord nbits w = some (decode (BitVec.ofNat 73 (w % 2 ^ nbits))) := by
  rw [decodeTableWord, decodeNumber_of_lt h]

theorem decodeTableWord_of_ge {nbits w : Nat} (h : 2 ^ 73 ≤ w % 2 ^ nbits) : decodeTableWord nbits w = none := by
  rw [decodeTableWord, decodeNumber_of_ge h]

/-- A request word is read back from its number in every width that holds it (log 17). -/
theorem decodeTableWord_toNat (w : Request) {nbits : Nat} (h : 73 ≤ nbits) :
    decodeTableWord nbits w.toNat = some (decode w) := by
  have hmod : w.toNat % 2 ^ nbits = w.toNat :=
    Nat.mod_eq_of_lt (w.isLt.trans_le (Nat.pow_le_pow_right (by omega) h))
  rw [decodeTableWord_of_lt (hmod.symm ▸ w.isLt), hmod, BitVec.ofNat_toNat, BitVec.setWidth_eq]

/-- Settles O1: the word decodes to its instruction, and its number is below `2^73`. -/
theorem decodeOfEncode : Obligations.DecodeOfEncode := by
  intro i
  refine ⟨instr_wellFormed i, decode_encode i, fun nbits h => ?_⟩
  rw [decodeTableWord_toNat _ h, decode_encode]

/-- Settles O4: the decoder's one test is against `2^73`. -/
theorem numberedWordRefusedOnlyWhenWider : Obligations.NumberedWordRefusedOnlyWhenWider := fun _ _ =>
  ⟨decodeTableWord_of_lt, fun h => ⟨decodeNumber_of_ge h, decodeTableWord_of_ge h⟩⟩

/-- A number is decoded as the request word with that number, or not at all (log 17). -/
theorem decode_of_decodeTableWord {nbits w : Nat} {i : Instr} (h : decodeTableWord nbits w = some i) :
    decode (BitVec.ofNat 73 (w % 2 ^ nbits)) = i := by
  by_cases hlt : w % 2 ^ nbits < 2 ^ 73
  · rw [decodeTableWord_of_lt hlt] at h
    exact Option.some.inj h
  · rw [decodeTableWord_of_ge (Nat.not_lt.mp hlt)] at h
    cases h

/-- Settles O7: the presented word is at the head of a direct host's list. -/
theorem presentedWordRunsNext : Obligations.PresentedWordRunsNext := by
  intro s nbits w i h
  rw [State.withFetchWord, step_direct (present_caller _ s) (present_requests _ s), decode_of_decodeTableWord h]
  rfl

end Sys2Proof.Machine
end

section
/-! SUPPORT. A request word by its bits (D3), and which words spell which instruction (R55, D18). -/
namespace Sys2Proof.Machine

/-- The operation field is bit 72 alone (R53). -/
theorem opField_eq (w : Request) : opField w = BitVec.ofBool (w.getLsbD 72) := by
  rw [← opField_getLsbD]
  generalize opField w = op
  revert op
  decide

theorem decode_of_bit_clear {w : Request} (h : w.getLsbD 72 = false) :
    decode w = .advance (genField w) (ruleField w) := by
  rw [decode, opField_eq, h]
  rfl

theorem decode_of_bit_set {w : Request} (h : w.getLsbD 72 = true) : decode w = .render (genField w) := by
  rw [decode, opField_eq, h]
  rfl

theorem genField_getLsbD_of_lt (w : Request) (i : Nat) (hi : i < 64) : (genField w).getLsbD i = w.getLsbD i := by
  rw [genField_getLsbD, decide_eq_true hi, Bool.true_and]

theorem ruleField_getLsbD_of_lt (w : Request) (i : Nat) (hi : i < 8) :
    (ruleField w).getLsbD i = w.getLsbD (64 + i) := by
  rw [ruleField_getLsbD, decide_eq_true hi, Bool.true_and]

/-- Settles O2: bit 72 decides the operation, whose operands are the fields. -/
theorem requestWordBitByBit : Obligations.RequestWordBitByBit := by
  intro w s
  constructor
  · intro h
    refine ⟨genField w, ruleField w, decode_of_bit_clear h, genField_getLsbD_of_lt w, ruleField_getLsbD_of_lt w, ?_⟩
    rw [decode_of_bit_clear h, exec_advance, State.respond]
  · intro h
    refine ⟨genField w, decode_of_bit_set h, genField_getLsbD_of_lt w, ?_⟩
    rw [decode_of_bit_set h, exec_render]

/-- A word is one of two: an ADVANCE of its two fields, or a RENDER whose rule field is ignored (R53, R55). -/
theorem requestWord_cases (w : Request) :
    (w = requestWord 0#1 (ruleField w) (genField w) ∧ decode w = .advance (genField w) (ruleField w))
    ∨ (w = requestWord 1#1 (ruleField w) (genField w) ∧ decode w = .render (genField w)) := by
  have hw := (requestWord_fields w).symm
  rw [opField_eq] at hw
  cases h : w.getLsbD 72 with
  | false => exact .inl ⟨by rwa [h] at hw, decode_of_bit_clear h⟩
  | true => exact .inr ⟨by rwa [h] at hw, decode_of_bit_set h⟩

/-- An ADVANCE has one word (D18). -/
theorem decode_eq_advance_iff (w : Request) (current : Generation) (rule : Rule) :
    decode w = .advance current rule ↔ w = requestWord 0#1 rule current := by
  constructor
  · intro h
    obtain ⟨hw, hd⟩ | ⟨hw, hd⟩ := requestWord_cases w
    · obtain ⟨hc, hr⟩ := Instr.advance.inj (hd.symm.trans h)
      rwa [hc, hr] at hw
    · cases hd.symm.trans h
  · rintro rfl
    exact decode_advance rule current

/-- A RENDER has a word for every value of the ignored field (R55, D18). -/
theorem decode_eq_render_iff (w : Request) (generation : Generation) :
    decode w = .render generation ↔ ∃ ignored : BitVec 8, w = requestWord 1#1 ignored generation := by
  constructor
  · intro h
    obtain ⟨hw, hd⟩ | ⟨hw, hd⟩ := requestWord_cases w
    · cases hd.symm.trans h
    · rw [Instr.render.inj (hd.symm.trans h)] at hw
      exact ⟨ruleField w, hw⟩
  · rintro ⟨ignored, rfl⟩
    exact decode_render ignored generation

/-- Settles O3: the fields are read back from the word, the ignored one too. -/
theorem wordsOfEachInstruction : Obligations.WordsOfEachInstruction := by
  refine ⟨decode_eq_advance_iff, decode_eq_render_iff, fun generation x y h => ?_⟩
  have hfield := congrArg ruleField h
  rwa [ruleField_requestWord, ruleField_requestWord] at hfield

/-- Settles O5: the words are closed, and the decoder computes. -/
theorem specWordsDecode : Obligations.SpecWordsDecode := by
  refine ⟨?_, ?_, ?_, ?_, ?_, ?_⟩ <;> decide

end Sys2Proof.Machine
end

section
/-! SUPPORT. ADVANCE by neighbourhoods (R70): which cells a result bit reads, and the corner cases that follow. -/
namespace Sys2Proof.Machine

/-- Settles O12: every result bit is the rule bit of its neighbourhood. -/
theorem advanceCellByCell : Obligations.AdvanceCellByCell := fun current rule s =>
  ⟨advance current rule, exec_advance current rule s, advance_getLsbD_neighbourhood current rule⟩

/-- Settles O13: the eight neighbourhoods have the eight codes. -/
theorem ruleFieldsByNeighbourhood : Obligations.RuleFieldsByNeighbourhood := by
  intro current rule s
  refine ⟨advance current rule, exec_advance current rule s, fun i hi => ?_⟩
  rw [advance_getLsbD_neighbourhood current rule i hi]
  cases leftOf current i <;> cases current.getLsbD i <;> cases rightOf current i <;> rfl

/-- A result bit depends on the three cells of its neighbourhood and the rule (R70). -/
theorem advance_getLsbD_congr {g h : Generation} (rule : Rule) {i : Nat} (hi : i < 64) (hl : leftOf g i = leftOf h i)
    (hc : g.getLsbD i = h.getLsbD i) (hr : rightOf g i = rightOf h i) :
    (advance g rule).getLsbD i = (advance h rule).getLsbD i := by
  rw [advance_getLsbD_neighbourhood g rule i hi, advance_getLsbD_neighbourhood h rule i hi, hl, hc, hr]

/-- Without a right neighbour the code is even and below 8 (R48). -/
theorem codeNumber_right_dead_even (left centre : Bool) :
    codeNumber left centre false < 8 ∧ codeNumber left centre false % 2 = 0 := by
  revert left centre
  decide

/-- Settles O23: the three cells, and at either end the codes that a missing neighbour leaves. -/
theorem localityOfAdvance : Obligations.LocalityOfAdvance := by
  refine ⟨fun g h rule i hi hl hc hr => advance_getLsbD_congr rule hi hl hc hr, fun g r q hrq => ?_,
    fun g r q hrq => ?_⟩
  · obtain ⟨hlt, heven⟩ := codeNumber_right_dead_even (g.getLsbD 1) (g.getLsbD 0)
    rw [advance_getLsbD_rightmost, advance_getLsbD_rightmost, hrq _ hlt heven]
  · have hle := codeNumber_left_dead_le (g.getLsbD 63) (g.getLsbD 62)
    rw [advance_getLsbD_leftmost, advance_getLsbD_leftmost, hrq _ (by omega)]

/-- The left neighbour of every cell is the bit above it: there is none above bit 63 (R45). -/
theorem leftOf_eq (g : Generation) (i : Nat) : leftOf g i = g.getLsbD (i + 1) := ite_getLsbD g (by omega)

theorem rightOf_of_pos (g : Generation) {i : Nat} (hi : 1 ≤ i) : rightOf g i = g.getLsbD (i - 1) := if_pos hi

theorem rightOf_zero (g : Generation) : rightOf g 0 = false := rfl

/-- Only cell 63 is alive. -/
theorem leftmost_getLsbD (i : Nat) : (0x8000000000000000#64).getLsbD i = decide (63 = i) := by
  have h : 0x8000000000000000#64 = BitVec.twoPow 64 63 := by decide
  rw [h, BitVec.getLsbD_twoPow]
  rfl

/-- In the all-dead generation every neighbourhood has code 0 (41_advance.md section 7 (a)). -/
theorem advance_zero (rule : Rule) : advance 0#64 rule = if rule.getLsbD 0 then 0xFFFFFFFFFFFFFFFF#64 else 0#64 := by
  have hright (i : Nat) : rightOf 0#64 i = false := by simp [rightOf]
  have hbit (i : Nat) (hi : i < 64) : (advance 0#64 rule).getLsbD i = rule.getLsbD 0 := by
    rw [advance_getLsbD_neighbourhood 0#64 rule i hi, leftOf_eq, hright, BitVec.getLsbD_zero, BitVec.getLsbD_zero]
    rfl
  have hones : 0xFFFFFFFFFFFFFFFF#64 = BitVec.allOnes 64 := by decide
  apply BitVec.eq_of_getLsbD_eq
  intro i hi
  rw [hbit i hi]
  split
  · next h => rw [h, hones, BitVec.getLsbD_allOnes, decide_eq_true hi]
  · next h => rw [BitVec.getLsbD_zero, Bool.eq_false_of_not_eq_true h]

/-- In the all-alive generation only the ends lack a neighbour (41_advance.md section 7 (b)). -/
theorem advance_allOnes_getLsbD (rule : Rule) (i : Nat) (hi : i < 64) :
    (advance (BitVec.allOnes 64) rule).getLsbD i =
      if i = 0 then rule.getLsbD 6 else if i = 63 then rule.getLsbD 3 else rule.getLsbD 7 := by
  rw [advance_getLsbD_neighbourhood _ rule i hi, leftOf_eq]
  split
  · next h => subst h; rfl
  · next h0 =>
    rw [rightOf_of_pos _ (Nat.one_le_iff_ne_zero.mpr h0)]
    split
    · next h => subst h; rfl
    · next h63 =>
      simp only [BitVec.getLsbD_allOnes, decide_eq_true hi, decide_eq_true (show i + 1 < 64 by omega),
        decide_eq_true (show i - 1 < 64 by omega)]
      rfl

/-- Cell 63 is in the neighbourhoods of cells 63 and 62 only (41_advance.md section 7 (g)). -/
theorem advance_flip_leftmost_getLsbD (g : Generation) (rule : Rule) (i : Nat) (hi : i < 62) :
    (advance (g ^^^ 0x8000000000000000#64) rule).getLsbD i = (advance g rule).getLsbD i := by
  have hkeep (j : Nat) (hj : j < 63) : (g ^^^ 0x8000000000000000#64).getLsbD j = g.getLsbD j :=
    xor_getLsbD_of_false g ((leftmost_getLsbD j).trans (decide_eq_false (by omega)))
  refine advance_getLsbD_congr rule (by omega) ?_ (hkeep i (by omega)) ?_
  · rw [leftOf_eq, leftOf_eq, hkeep (i + 1) (by omega)]
  · rw [rightOf, rightOf, hkeep (i - 1) (by omega)]

/-- Settles O27: the neighbourhoods of the two uniform generations, and of the cells that cell 63 does not reach. -/
theorem advanceCornerCases : Obligations.AdvanceCornerCases := by
  refine ⟨advance_zero, advance_allOnes_getLsbD, fun g rule s h => ?_, advance_flip_leftmost_getLsbD⟩
  rw [exec_advance, h, State.respond]

end Sys2Proof.Machine
end

section
/-! SUPPORT. The mirror image of a generation, of a neighbourhood and of a rule (41_advance.md section 7 (h)). -/
namespace Sys2Proof.Machine

/-- Mirroring exchanges cell `i` and cell `63 - i`. -/
theorem reverse_getLsbD (g : Generation) (i : Nat) (hi : i < 64) : g.reverse.getLsbD i = g.getLsbD (63 - i) := by
  rw [BitVec.getLsbD_reverse, BitVec.getMsbD, decide_eq_true hi, Bool.true_and]

/-- Mirroring makes the right neighbour the left one (41_advance.md section 7 (h)). -/
theorem leftOf_reverse (g : Generation) (i : Nat) (hi : i < 64) : leftOf g.reverse i = rightOf g (63 - i) := by
  by_cases h63 : i = 63
  · subst h63
    rfl
  · rw [leftOf_eq, reverse_getLsbD g _ (by omega), rightOf_of_pos g (by omega)]
    rfl

theorem rightOf_reverse (g : Generation) (i : Nat) (hi : i < 64) : rightOf g.reverse i = leftOf g (63 - i) := by
  have hmirror := leftOf_reverse g.reverse (63 - i) (by omega)
  rw [BitVec.reverse_reverse_eq] at hmirror
  rw [hmirror, Nat.sub_sub_self (by omega)]

/-- The mirrored rule serves a neighbourhood as the rule serves its mirror image (41_advance.md section 7 (h)). -/
theorem mirrorRule_getLsbD (r : Rule) (left centre right : Bool) :
    (mirrorRule r).getLsbD (codeNumber left centre right) = r.getLsbD (codeNumber right centre left) := by
  simp only [mirrorRule, BitVec.getLsbD_append, BitVec.getLsbD_extractLsb']
  cases left <;> cases centre <;> cases right <;> rfl

/-- Settles O26: mirroring turns the neighbourhood of cell `i` into the mirrored one of cell `63 - i`. -/
theorem mirrorImage : Obligations.MirrorImage := by
  intro current rule
  apply BitVec.eq_of_getLsbD_eq
  intro i hi
  rw [advance_getLsbD_neighbourhood _ _ i hi, mirrorRule_getLsbD, leftOf_reverse current i hi,
    rightOf_reverse current i hi, reverse_getLsbD current i hi, reverse_getLsbD _ i hi,
    advance_getLsbD_neighbourhood current rule (63 - i) (by omega)]

end Sys2Proof.Machine
end

section
/-! SUPPORT. ADVANCE on whole words: the shifts by 1 as neighbours, the rules that are one word operation, and the decay
under rule 240. -/
namespace Sys2Proof.Machine

/-- The word shifted right holds every cell's left neighbour (R71). -/
theorem ushiftRight_one_getLsbD (g : Generation) (i : Nat) : (g >>> 1).getLsbD i = leftOf g i := by
  rw [BitVec.getLsbD_ushiftRight, leftOf_eq, Nat.add_comm]

/-- The word shifted left holds every cell's right neighbour (R71). -/
theorem shiftLeft_one_getLsbD (g : Generation) (i : Nat) (hi : i < 64) : (g <<< 1).getLsbD i = rightOf g i := by
  rw [BitVec.getLsbD_shiftLeft, decide_eq_true hi, Bool.true_and]
  by_cases h0 : i = 0
  · subst h0
    rfl
  · have h1 : 1 ≤ i := Nat.one_le_iff_ne_zero.mpr h0
    rw [rightOf_of_pos g h1, decide_eq_false (Nat.not_lt.mpr h1)]
    rfl

theorem not_getLsbD (v : Generation) (i : Nat) (hi : i < 64) : (~~~v).getLsbD i = !v.getLsbD i := by
  rw [BitVec.getLsbD_not, decide_eq_true hi, Bool.true_and]

/-- A rule whose table is a Boolean function of the neighbourhood computes the word that has this function of the
neighbourhood in every bit. -/
theorem advance_eq_of_table {rule : Rule} (f : Bool → Bool → Bool → Bool)
    (hrule : ∀ left centre right, rule.getLsbD (codeNumber left centre right) = f left centre right)
    {g v : Generation} (hv : ∀ i < 64, v.getLsbD i = f (leftOf g i) (g.getLsbD i) (rightOf g i)) :
    advance g rule = v := by
  apply BitVec.eq_of_getLsbD_eq
  intro i hi
  rw [advance_getLsbD_neighbourhood g rule i hi, hrule, hv i hi]

section
variable (g : Generation)

theorem advance_rule_204 : advance g 204#8 = g :=
  advance_eq_of_table (fun _ c _ => c) (by decide) fun _ _ => rfl

theorem advance_rule_51 : advance g 51#8 = ~~~g :=
  advance_eq_of_table (fun _ c _ => !c) (by decide) fun i hi => not_getLsbD g i hi

theorem advance_rule_240 : advance g 240#8 = g >>> 1 :=
  advance_eq_of_table (fun l _ _ => l) (by decide) fun i _ => ushiftRight_one_getLsbD g i

theorem advance_rule_170 : advance g 170#8 = g <<< 1 :=
  advance_eq_of_table (fun _ _ r => r) (by decide) fun i hi => shiftLeft_one_getLsbD g i hi

theorem advance_rule_15 : advance g 15#8 = ~~~(g >>> 1) :=
  advance_eq_of_table (fun l _ _ => !l) (by decide) fun i hi => by
    rw [not_getLsbD _ i hi, ushiftRight_one_getLsbD]

theorem advance_rule_85 : advance g 85#8 = ~~~(g <<< 1) :=
  advance_eq_of_table (fun _ _ r => !r) (by decide) fun i hi => by
    rw [not_getLsbD _ i hi, shiftLeft_one_getLsbD g i hi]

theorem advance_rule_90 : advance g 90#8 = (g >>> 1) ^^^ (g <<< 1) :=
  advance_eq_of_table (fun l _ r => l ^^ r) (by decide) fun i hi => by
    rw [BitVec.getLsbD_xor, ushiftRight_one_getLsbD, shiftLeft_one_getLsbD g i hi]

theorem advance_rule_150 : advance g 150#8 = (g >>> 1) ^^^ g ^^^ (g <<< 1) :=
  advance_eq_of_table (fun l c r => l ^^ c ^^ r) (by decide) fun i hi => by
    rw [BitVec.getLsbD_xor, BitVec.getLsbD_xor, ushiftRight_one_getLsbD, shiftLeft_one_getLsbD g i hi]

theorem advance_rule_30 : advance g 30#8 = (g >>> 1) ^^^ (g ||| (g <<< 1)) :=
  advance_eq_of_table (fun l c r => l ^^ (c || r)) (by decide) fun i hi => by
    rw [BitVec.getLsbD_xor, BitVec.getLsbD_or, ushiftRight_one_getLsbD, shiftLeft_one_getLsbD g i hi]

end

/-- Settles O24: the two constant rules, and nine whose table is a Boolean function of the neighbourhood. -/
theorem wordOperationRules : Obligations.WordOperationRules := fun g =>
  ⟨advance_rule_zero g, advance_rule_allOnes g, advance_rule_204 g, advance_rule_51 g, advance_rule_240 g,
    advance_rule_170 g, advance_rule_15 g, advance_rule_85 g, advance_rule_90 g, advance_rule_150 g, advance_rule_30 g⟩

/-- Rule 240 shifts the generation right once a step (41_advance.md section 5, N13). -/
theorem generation_rule_240 (g : Generation) (m : Nat) : generation 240#8 g m = g >>> m := by
  induction m with
  | zero => exact (BitVec.ushiftRight_zero g).symm
  | succ m ih => rw [generation, ih, advance_rule_240, BitVec.shiftRight_add]

/-- The leftmost cell moved right by `m` is the one cell `63 - m`. -/
theorem leftmost_ushiftRight {m : Nat} (hm : m ≤ 63) : 0x8000000000000000#64 >>> m = 1#64 <<< (63 - m) := by
  have hone : 1#64 <<< (63 - m) = BitVec.twoPow 64 (63 - m) := rfl
  have hpos : 63 - m < 64 := by omega
  apply BitVec.eq_of_getLsbD_eq
  intro i hi
  have hi63 : 63 = m + i ↔ 63 - m = i := by omega
  rw [BitVec.getLsbD_ushiftRight, leftmost_getLsbD, hone, BitVec.getLsbD_twoPow, decide_eq_true hpos, Bool.true_and]
  exact decide_eq_decide.mpr hi63

/-- Settles O25: under rule 240 the `m`-th generation is the first shifted right by `m`. -/
theorem leftEdgeDecay : Obligations.LeftEdgeDecay := by
  intro m
  rw [generation_rule_240]
  exact ⟨leftmost_ushiftRight, fun hm => BitVec.ushiftRight_eq_zero hm⟩

end Sys2Proof.Machine
end

section
/-! SUPPORT. The packed form (R71), bit by bit: every cell has one code, and the OR over the codes picks it. -/
namespace Sys2Proof.Machine

/-- A word complemented where the code's bit is 0 has a 1 where the cell equals the code's bit (R71). -/
theorem wordIf_getLsbD (b : Bool) (v : Generation) (i : Nat) (hi : i < 64) :
    (wordIf b v).getLsbD i = (v.getLsbD i == b) := by
  cases b with
  | true => exact (beq_true _).symm
  | false => exact (not_getLsbD v i hi).trans (beq_false _).symm

/-- The three bits of a code below 8 are the neighbourhood it encodes (R47). -/
theorem testBit_eq_neighbourhood_iff (left centre right : Bool) (k : Nat) (hk : k < 8) :
    ((left == k.testBit 2) && (centre == k.testBit 1) && (right == k.testBit 0))
      = decide (codeNumber left centre right = k) := by
  have h : ∀ left centre right : Bool, ∀ k < 8,
      ((left == k.testBit 2) && (centre == k.testBit 1) && (right == k.testBit 0))
        = decide (codeNumber left centre right = k) := by decide
  exact h left centre right k hk

/-- The cells with code `k` are those whose neighbourhood encodes to `k` (R71). -/
theorem cellsWithCode_getLsbD (g : Generation) (k i : Nat) (hk : k < 8) (hi : i < 64) :
    (cellsWithCode g k).getLsbD i = decide (codeNumber (leftOf g i) (g.getLsbD i) (rightOf g i) = k) := by
  rw [cellsWithCode, BitVec.getLsbD_and, BitVec.getLsbD_and, wordIf_getLsbD _ _ i hi, wordIf_getLsbD _ _ i hi,
    wordIf_getLsbD _ _ i hi, shr64, shl64, ushiftRight_one_getLsbD, shiftLeft_one_getLsbD g i hi,
    testBit_eq_neighbourhood_iff _ _ _ k hk]

/-- The packed form restricted to the codes below `n` (R71). -/
def advancePackedBelow (current : Generation) (rule : Rule) (n : Nat) : Generation :=
  (List.range n).foldl (fun acc k => if rule.getLsbD k then acc ||| cellsWithCode current k else acc) 0#64

theorem advancePackedBelow_eight (g : Generation) (r : Rule) : advancePackedBelow g r 8 = advancePacked g r := rfl

theorem advancePackedBelow_succ (g : Generation) (r : Rule) (n : Nat) :
    advancePackedBelow g r (n + 1) =
      if r.getLsbD n then advancePackedBelow g r n ||| cellsWithCode g n else advancePackedBelow g r n := by
  simp only [advancePackedBelow, List.range_succ, List.foldl_append, List.foldl_cons, List.foldl_nil]

/-- The codes below `n` set the cells whose own code is below `n`, as the rule says (R71). -/
theorem advancePackedBelow_getLsbD (g : Generation) (r : Rule) (n i : Nat) (hn : n ≤ 8) (hi : i < 64) :
    (advancePackedBelow g r n).getLsbD i =
      (decide (codeNumber (leftOf g i) (g.getLsbD i) (rightOf g i) < n)
        && r.getLsbD (codeNumber (leftOf g i) (g.getLsbD i) (rightOf g i))) := by
  induction n with
  | zero => simp [advancePackedBelow]
  | succ n ih =>
    have hcell := cellsWithCode_getLsbD g n i (by omega) hi
    have ih := ih (by omega)
    rw [advancePackedBelow_succ]
    generalize codeNumber (leftOf g i) (g.getLsbD i) (rightOf g i) = code at hcell ih ⊢
    by_cases h : code = n
    · subst h
      cases hr : r.getLsbD code <;> simp [ih, hcell, hr]
    · have hlt : code < n + 1 ↔ code < n := by omega
      cases hr : r.getLsbD n <;> simp [ih, hcell, h, hlt]

/-- The packed form is the procedure: every cell has one code, below 8 (R71). -/
theorem advance_eq_advancePacked (g : Generation) (r : Rule) : advance g r = advancePacked g r := by
  apply BitVec.eq_of_getLsbD_eq
  intro i hi
  have hcode : (codeOfIndex g i).toNat < 8 := (codeOfIndex g i).isLt
  rw [codeOfIndex_toNat] at hcode
  rw [advance_getLsbD_neighbourhood g r i hi, ← advancePackedBelow_eight, advancePackedBelow_getLsbD g r 8 i le_rfl hi,
    decide_eq_true hcode, Bool.true_and]

/-- Settles O14: ADVANCE answers the procedure's result, which is the packed form's. -/
theorem advanceEqualsPackedForm : Obligations.AdvanceEqualsPackedForm := by
  intro current rule s
  rw [exec_advance, advance_eq_advancePacked, State.respond]

end Sys2Proof.Machine
end

section
/-! SUPPORT. The shifts of the procedure at the edges of the word (R67, D17). -/
namespace Sys2Proof.Machine

/-- The first shift loses cell 63, which is in no neighbourhood of cell 0 (R48, R67). -/
theorem codeOfCellZero_flip_leftmost (g : Generation) :
    codeOfCellZero (g ^^^ 0x8000000000000000#64) = codeOfCellZero g := by
  apply BitVec.eq_of_toNat_eq
  rw [codeOfCellZero_toNat, codeOfCellZero_toNat, xor_getLsbD_of_false g (by decide),
    xor_getLsbD_of_false g (by decide)]

/-- The working value after `k` shifts by 1 is the operand shifted by `k` (R67). -/
theorem shr64_one_iterate (w : Generation) (k : Nat) : (fun v => shr64 v 1)^[k] w = shr64 w k := by
  induction k with
  | zero => exact (BitVec.ushiftRight_zero w).symm
  | succ k ih => rw [Function.iterate_succ_apply', ih, shr64_shr64]

/-- A looked-up bit placed at `j` up to 63 is `b * 2^j` (R67). -/
theorem shl64_zext64_toNat (b : Cell) (j : Nat) (hj : j ≤ 63) : (shl64 (zext64 b) j).toNat = b.toNat * 2 ^ j := by
  have hb : b.toNat ≤ 1 := Nat.le_of_lt_succ b.isLt
  have hpow : b.toNat * 2 ^ j < 2 ^ 64 :=
    calc b.toNat * 2 ^ j ≤ 1 * 2 ^ 63 := Nat.mul_le_mul hb (Nat.pow_le_pow_right (by omega) hj)
      _ < 2 ^ 64 := by omega
  rw [shl64, zext64, BitVec.toNat_shiftLeft, BitVec.toNat_setWidth,
    Nat.mod_eq_of_lt (show b.toNat < 2 ^ 64 by omega), Nat.shiftLeft_eq, Nat.mod_eq_of_lt hpow]

/-- Settles O19: the two shifts of the procedure, and the placing of a bit at either side of position 63. -/
theorem shiftsAtTheEdges : Obligations.ShiftsAtTheEdges := by
  refine ⟨codeOfCellZero_flip_leftmost, fun w k => ⟨shr64_one_iterate w k, fun i hi => ?_⟩,
    fun b j _ hj => shl64_zext64_toNat b j hj, fun b => ?_⟩
  · rw [shr64_getLsbD, BitVec.getLsbD_of_ge w _ (by omega)]
  · exact BitVec.shiftLeft_eq_zero le_rfl

end Sys2Proof.Machine
end

section
/-! SUPPORT. Rows as tokens: a row and its generation, and the rows written out (R51, R93, R95). -/
namespace Sys2Proof.Machine

/-- A glyph shows its own cell (R93). -/
theorem glyphOf_eq_glyphOf_iff (g h : Generation) (i j : Nat) :
    glyphOf g i = glyphOf h j ↔ g.getLsbD i = h.getLsbD j := by
  simp only [glyphOf]
  cases g.getLsbD i <;> cases h.getLsbD j <;> decide

/-- A row determines its generation (42_render.md section 1). -/
theorem row_injective {g h : Generation} (hrow : row g = row h) : g = h := by
  apply BitVec.eq_of_getLsbD_eq
  intro i hi
  have hglyph : (row g)[63 - i]? = (row h)[63 - i]? := by rw [hrow]
  rw [row_glyph g _ (by omega), row_glyph h _ (by omega), Nat.sub_sub_self (by omega)] at hglyph
  exact (glyphOf_eq_glyphOf_iff g h i i).1 (Option.some.inj hglyph)

/-- Settles O29: the state answered holds the row, and a row determines its generation; token `n` is a glyph. -/
theorem rowDeterminesGeneration : Obligations.RowDeterminesGeneration := by
  constructor
  · intro g h s t hg hh
    rw [exec_render] at hg hh
    have hout := congrArg State.out (Host.Outcome.next.inj (hg.trans hh.symm))
    exact row_injective (List.append_cancel_left hout)
  · intro g h n hn hcell
    rw [row_glyph g n hn, row_glyph h n hn, (glyphOf_eq_glyphOf_iff g h _ _).2 hcell]

/-- A row whose 64 glyphs are the tokens of a list is that list and the terminator (R51). -/
theorem row_eq_of_glyphs {g : Generation} {ts : List Token} (hlen : ts.length = 64)
    (hts : ∀ n < 64, ts[n]? = some (glyphOf g (63 - n))) : row g = ts ++ [.nl] := by
  have hglyphs : rowGlyphs g = ts := by
    apply List.ext_getElem?
    intro n
    by_cases hn : n < 64
    · rw [hts n hn, ← row_glyph g n hn, row, List.getElem?_append_left (by rwa [rowGlyphs_length])]
    · rw [List.getElem?_eq_none (by rw [rowGlyphs_length]; omega), List.getElem?_eq_none (by omega)]
  rw [row, hglyphs]

theorem row_zero : row 0#64 = List.replicate 64 (.glyph .dead) ++ [.nl] :=
  row_eq_of_glyphs List.length_replicate fun n hn => by
    rw [List.getElem?_replicate_of_lt hn, glyphOf, BitVec.getLsbD_zero]
    rfl

theorem row_allOnes : row 0xFFFFFFFFFFFFFFFF#64 = List.replicate 64 (.glyph .alive) ++ [.nl] :=
  row_eq_of_glyphs List.length_replicate fun n hn => by
    have hones : 0xFFFFFFFFFFFFFFFF#64 = BitVec.allOnes 64 := by decide
    rw [List.getElem?_replicate_of_lt hn, glyphOf, hones, BitVec.getLsbD_allOnes, decide_eq_true (by omega)]
    rfl

/-- A list of one token among equal ones, by position. -/
theorem single_among_replicate_getElem? (t u : Token) {a b n : Nat} (h : n < a + 1 + b) :
    (List.replicate a t ++ [u] ++ List.replicate b t)[n]? = some (if n = a then u else t) := by
  rcases Nat.lt_trichotomy n a with hn | rfl | hn
  · have hne : n ≠ a := by omega
    simp [List.getElem?_append, hn, hne]
  · simp
  · obtain ⟨d, rfl⟩ := Nat.exists_eq_add_of_lt hn
    have hoff : a + d + 1 - a = d + 1 := by omega
    have hd : d < b := by omega
    have hge : ¬ a + d + 1 < a := by omega
    have hne : a + d + 1 ≠ a := by omega
    simp [List.getElem?_append, hge, hoff, hne, hd]

/-- The one live cell `k` is token `63 - k` of the row (R95). -/
theorem row_single (k : Nat) (hk : k < 64) :
    row (1#64 <<< k) = List.replicate (63 - k) (.glyph .dead) ++ [.glyph .alive]
      ++ List.replicate k (.glyph .dead) ++ [.nl] := by
  apply row_eq_of_glyphs
  · simp only [List.length_append, List.length_replicate, List.length_singleton]
    omega
  · intro n hn
    have hpos : n = 63 - k ↔ k = 63 - n := by omega
    rw [single_among_replicate_getElem? _ _ (by omega), glyphOf, ← BitVec.twoPow_eq, BitVec.getLsbD_twoPow,
      decide_eq_true hk, Bool.true_and]
    simp only [hpos, decide_eq_true_eq]

/-- Settles O30: the rows of the two uniform generations and of a single live cell. -/
theorem renderCornerCases : Obligations.RenderCornerCases := by
  intro s
  refine ⟨?_, ?_, fun k hk => ?_⟩
  · rw [exec_render, row_zero]
  · rw [exec_render, row_allOnes]
  · rw [exec_render, row_single k hk]

end Sys2Proof.Machine
end

section
/-! SUPPORT. Rows as bytes, on a sink that counts them (R34, R96). -/
namespace Sys2Proof.Machine

/-- The glyphs of a row are those of the cells in descending order (R51). -/
theorem rowGlyphs_eq_map_reverse (g : Generation) : rowGlyphs g = (List.range 64).reverse.map (glyphOf g) := by
  have hrev : (List.range 64).reverse = (List.range 64).map (63 - ·) := by decide
  rw [hrev, List.map_map]
  rfl

/-- The bytes of the glyphs of some cells: so many live ones, so many dead ones (R96). -/
theorem bytesOf_glyphs_length (b : Glyphs) (g : Generation) (cells : List Nat) :
    (bytesOf b (cells.map (glyphOf g))).length =
      cells.countP g.getLsbD * b.alive.length + (cells.length - cells.countP g.getLsbD) * b.dead.length := by
  induction cells with
  | nil => simp [bytesOf]
  | cons i cells ih =>
    have hle : cells.countP g.getLsbD ≤ cells.length := List.countP_le_length
    rw [bytesOf] at ih
    rw [bytesOf, List.map_cons, List.flatMap_cons, List.length_append, ih, List.countP_cons, List.length_cons]
    cases h : g.getLsbD i with
    | true =>
      have hdead : cells.length + 1 - (cells.countP g.getLsbD + 1) = cells.length - cells.countP g.getLsbD := by omega
      simp only [glyphOf, h, if_true, tokenBytes, hdead]
      ring
    | false =>
      have hdead : cells.length + 1 - cells.countP g.getLsbD = cells.length - cells.countP g.getLsbD + 1 := by omega
      simp only [glyphOf, h, Bool.false_eq_true, if_false, tokenBytes, Nat.add_zero, hdead]
      ring

theorem bytesOf_append (b : Glyphs) (ts us : List Token) : bytesOf b (ts ++ us) = bytesOf b ts ++ bytesOf b us :=
  List.flatMap_append

/-- The bytes of a row, by its live cells (R96). -/
theorem bytesOf_row_length (b : Glyphs) (g : Generation) :
    (bytesOf b (row g)).length =
      liveCells g * b.alive.length + (64 - liveCells g) * b.dead.length + b.nl.length := by
  have hnl : bytesOf b [.nl] = b.nl := List.flatMap_singleton ..
  rw [row, bytesOf_append, List.length_append, rowGlyphs_eq_map_reverse, bytesOf_glyphs_length, List.countP_reverse,
    List.length_reverse, List.length_range, hnl]
  rfl

/-- Settles O31: the count by live cells, and with 9, 1 and 1 bytes a token `9p + (64 - p) + 1`. -/
theorem rowSizeInBytes : Obligations.RowSizeInBytes := by
  intro b g
  have hle : liveCells g ≤ 64 := List.countP_le_length
  have halive : Config.defaultGlyphs.alive.length = 9 := rfl
  have hdead : Config.defaultGlyphs.dead.length = 1 := rfl
  have hterm : Config.defaultGlyphs.nl.length = 1 := rfl
  refine ⟨bytesOf_row_length b g, ?_⟩
  rw [bytesOf_row_length, halive, hdead, hterm]
  omega

/-- Settles O32: the premise makes the sink hold `OUT`, which the row is appended to. -/
theorem sinkReceivesTheRow : Obligations.SinkReceivesTheRow := by
  intro sink b g s hsink
  refine ⟨_, exec_render g s, ?_, ?_⟩
  · rw [hsink, hsink]
  · rw [hsink, hsink, bytesOf_append]

end Sys2Proof.Machine
end

section
/-! SUPPORT. What a step adds to `OUT` (R37), and that it reads nothing there (R17). -/
namespace Sys2Proof.Machine

/-- Settles O35: a step adds nothing to `OUT` or one row. -/
theorem outputStaysWholeRows : Obligations.OutputStaysWholeRows := by
  rintro s t ⟨gs, hgs⟩ h
  obtain ⟨hout, -⟩ | ⟨-, -, g, -, -, hout⟩ := everyTokenComesFromRender s t h
  · exact ⟨gs, hout.trans hgs⟩
  · refine ⟨gs ++ [g], ?_⟩
    rw [hout, hgs, List.flatMap_append, List.flatMap_singleton]

/-- How the host can stand before a step: the driver stopped or in one of its phases, or a direct host without or with
a request. -/
theorem host_cases (s : State) :
    (s.caller = .driver ∧ s.done = true) ∨
    (s.caller = .driver ∧ s.done = false ∧ s.phase = .validate) ∨
    (s.caller = .driver ∧ s.done = false ∧ s.phase = .renderNext) ∨
    (s.caller = .driver ∧ s.done = false ∧ s.phase = .advanceNext) ∨
    (s.caller = .direct ∧ s.requests = []) ∨
    (s.caller = .direct ∧ ∃ w ws, s.requests = w :: ws) := by
  rcases caller_cases s with hc | hc
  · cases hd : s.done with
    | true => exact .inl ⟨hc, rfl⟩
    | false =>
      rcases phase_cases s with hp | hp | hp
      · exact .inr (.inl ⟨hc, rfl, hp⟩)
      · exact .inr (.inr (.inl ⟨hc, rfl, hp⟩))
      · exact .inr (.inr (.inr (.inl ⟨hc, rfl, hp⟩)))
  · cases hr : s.requests with
    | nil => exact .inr (.inr (.inr (.inr (.inl ⟨hc, rfl⟩))))
    | cons w ws => exact .inr (.inr (.inr (.inr (.inr ⟨hc, w, ws, rfl⟩))))

/-- The state with the tokens `before` in front of `OUT`'s own. -/
def State.withOutBefore (before : List Token) (s : State) : State := { s with out := before ++ s.out }

section
variable (before : List Token) (s : State)

theorem validate_withOutBefore : (s.withOutBefore before).validate = s.validate.withOutBefore before := by
  have hargs : (s.withOutBefore before).args = s.args := rfl
  cases h : checkArgs s.args <;> simp only [State.validate, hargs, h] <;> rfl

theorem afterRender_withOutBefore : afterRender (s.withOutBefore before) = (afterRender s).withOutBefore before := by
  by_cases h : s.rule = 0#8
  · rw [afterRender_zero h, afterRender_zero (s := s.withOutBefore before) h]
    rfl
  · rw [afterRender_nonzero h, afterRender_nonzero (s := s.withOutBefore before) h]
    rfl

theorem afterAdvance_withOutBefore :
    afterAdvance (s.withOutBefore before) = (afterAdvance s).withOutBefore before := by
  by_cases h : s.next = s.cur ∨ s.n = 32
  · rw [afterAdvance_stop h, afterAdvance_stop (s := s.withOutBefore before) h]
    rfl
  · obtain ⟨hne, hn⟩ := not_or.1 h
    rw [afterAdvance_continue hne hn, afterAdvance_continue (s := s.withOutBefore before) hne hn]
    rfl

theorem append_withOutBefore (ts : List Token) :
    { s.withOutBefore before with out := (s.withOutBefore before).out ++ ts }
      = State.withOutBefore before { s with out := s.out ++ ts } :=
  congrArg (fun out => { s with out := out }) (List.append_assoc before s.out ts)

theorem exec_withOutBefore (i : Instr) :
    exec i (s.withOutBefore before) = onNext (State.withOutBefore before) (exec i s) := by
  cases i with
  | advance current rule =>
    rw [exec_advance, exec_advance]
    rfl
  | render generation => rw [exec_render, exec_render, append_withOutBefore, onNext]

end

/-- Settles O34: in every way the host can stand, what the step does leaves the tokens before untouched. -/
theorem outputIsNeverRead : Obligations.OutputIsNeverRead := by
  intro s before
  change step (s.withOutBefore before) = onNext (State.withOutBefore before) (step s)
  obtain ⟨hc, hd⟩ | ⟨hc, hd, hp⟩ | ⟨hc, hd, hp⟩ | ⟨hc, hd, hp⟩ | ⟨hc, hr⟩ | ⟨hc, w, ws, hr⟩ := host_cases s
  · rw [step_over hc hd, step_over (s := s.withOutBefore before) hc hd, onNext]
  · rw [step_validate hc hd hp, step_validate (s := s.withOutBefore before) hc hd hp, validate_withOutBefore, onNext]
  · rw [step_render hc hd hp, step_render (s := s.withOutBefore before) hc hd hp, append_withOutBefore,
      afterRender_withOutBefore, onNext]
    rfl
  · rw [step_advance hc hd hp, step_advance (s := s.withOutBefore before) hc hd hp, onNext,
      ← afterAdvance_withOutBefore]
    rfl
  · rw [step_no_request hc hr, step_no_request (s := s.withOutBefore before) hc hr, onNext]
  · rw [step_direct hc hr, step_direct (s := s.withOutBefore before) hc hr, ← exec_withOutBefore]
    rfl

end Sys2Proof.Machine
end

section
/-! SUPPORT. The steps of the driver (R107) and of a direct host (P9), and where no step exists. -/
namespace Sys2Proof.Machine

/-- Settles O6: the step's equation in each of the three ways a host issues a request. -/
theorem stepRunsTheDecodedInstruction : Obligations.StepRunsTheDecodedInstruction := by
  refine ⟨fun s w ws hc hr => step_direct hc hr, fun s hc hd hp => ?_, fun s hc hd hp => ?_⟩
  · rw [step_render hc hd hp, exec_render, onNext]
  · rw [step_advance hc hd hp, exec_advance, onNext]

/-- Settles O37: the row, and then the driver's action for rule 0 or for another. -/
theorem driverRenderStep : Obligations.DriverRenderStep := by
  intro s hc hd hp
  exact ⟨fun hr => (step_render hc hd hp).trans (congrArg _ (afterRender_zero hr)),
    fun hr => (step_render hc hd hp).trans (congrArg _ (afterRender_nonzero hr))⟩

/-- Settles O38: the response, and then the driver's action where it stops or goes on. -/
theorem driverAdvanceStep : Obligations.DriverAdvanceStep := by
  intro s hc hd hp
  exact ⟨fun hstop => (step_advance hc hd hp).trans (congrArg _ (afterAdvance_stop hstop)),
    fun hne hn => (step_advance hc hd hp).trans (congrArg _ (afterAdvance_continue hne hn))⟩

/-- The tokens a request word adds to `OUT` (R53, R90). -/
def requestTokens (w : Request) : List Token :=
  match decode w with
  | .render g => row g
  | .advance _ _ => []

/-- The latest answer after a request word, `v` before it (R53, log 24). -/
def answerAfter (v : Generation) (w : Request) : Generation :=
  match decode w with
  | .advance c r => advance c r
  | .render _ => v

/-- The state after a direct host has issued `ws`, with `rest` left to issue (R38, P9). -/
def State.afterRequests (ws rest : List Request) (s : State) : State :=
  { s with requests := rest, out := s.out ++ ws.flatMap requestTokens, next := ws.foldl answerAfter s.next }

/-- One request after the other is one list of requests. -/
theorem afterRequests_cons (w : Request) (ws us rest : List Request) (s : State) :
    (s.afterRequests [w] us).afterRequests ws rest = s.afterRequests (w :: ws) rest := by
  simp only [State.afterRequests, List.flatMap_cons, List.flatMap_nil, List.append_nil, List.append_assoc,
    List.foldl_cons, List.foldl_nil]

theorem afterRequests_nil {s : State} {rest : List Request} (h : s.requests = rest) : s.afterRequests [] rest = s := by
  rw [State.afterRequests, List.flatMap_nil, List.append_nil, List.foldl_nil, ← h]

/-- A request issued directly adds its tokens and replaces the answer (P9). -/
theorem step_direct_effect {s : State} {w : Request} {ws : List Request} (hc : s.caller = .direct)
    (hr : s.requests = w :: ws) : step s = .next (s.afterRequests [w] ws) := by
  rw [step_direct hc hr, State.afterRequests, List.flatMap_singleton, List.foldl_cons, List.foldl_nil]
  cases h : decode w with
  | advance c r =>
    rw [exec_advance, requestTokens, answerAfter, h, List.append_nil]
    rfl
  | render g =>
    rw [exec_render, requestTokens, answerAfter, h]
    rfl

/-- Requests issued directly, one after the other (R38, P9). -/
theorem run_direct (ws rest : List Request) : ∀ s : State, s.caller = .direct → s.requests = ws ++ rest →
    core.run ws.length s = .next (s.afterRequests ws rest) := by
  induction ws with
  | nil =>
    intro s _ hr
    exact (run_zero s).trans (congrArg _ (afterRequests_nil hr).symm)
  | cons w ws ih =>
    intro s hc hr
    have hrest := ih (s.afterRequests [w] (ws ++ rest)) hc rfl
    rw [afterRequests_cons] at hrest
    exact (run_step (step_direct_effect hc hr) ws.length).trans hrest

/-- Settles O36: one step per request, each with its tokens and its answer. -/
theorem directRequestsTakeEffectInOrder : Obligations.DirectRequestsTakeEffectInOrder := run_direct

/-- The driver has a step in every phase until it stops (R107). -/
theorem step_driver_next {s : State} (hc : s.caller = .driver) (hd : s.done = false) : ∃ t, step s = .next t := by
  rcases phase_cases s with hp | hp | hp
  · exact ⟨_, step_validate hc hd hp⟩
  · exact ⟨_, step_render hc hd hp⟩
  · exact ⟨_, step_advance hc hd hp⟩

/-- A direct host has a step while it has a request (P9). -/
theorem step_direct_next {s : State} (hc : s.caller = .direct) (hr : s.requests ≠ []) : ∃ t, step s = .next t := by
  obtain ⟨w, ws, hws⟩ := List.exists_cons_of_ne_nil hr
  exact ⟨_, step_direct_effect hc hws⟩

/-- A refused step: the driver has stopped, or a direct host has no request left (log 7). -/
theorem step_refused_cases {s : State} {r : Refusal} (h : step s = .refused r) :
    (s.caller = .driver ∧ s.done = true ∧ r = .runOver) ∨ (s.caller = .direct ∧ s.requests = [] ∧ r = .noRequest) := by
  rcases caller_cases s with hc | hc
  · cases hd : s.done with
    | true =>
      rw [step_over hc hd] at h
      exact .inl ⟨hc, rfl, (Host.Outcome.refused.inj h).symm⟩
    | false =>
      obtain ⟨t, ht⟩ := step_driver_next hc hd
      cases h.symm.trans ht
  · by_cases hr : s.requests = []
    · rw [step_no_request hc hr] at h
      exact .inr ⟨hc, hr, (Host.Outcome.refused.inj h).symm⟩
    · obtain ⟨t, ht⟩ := step_direct_next hc hr
      cases h.symm.trans ht

/-- Settles O47: a refusal is one of the two, and no fault exists. -/
theorem stepStopsOnlyWhenNothingIsLeft : Obligations.StepStopsOnlyWhenNothingIsLeft := by
  intro s
  refine ⟨fun r => ⟨step_refused_cases, ?_⟩, (fun f => nomatch f), ?_⟩
  · rintro (⟨hc, hd, rfl⟩ | ⟨hc, hr, rfl⟩)
    · exact step_over hc hd
    · exact step_no_request hc hr
  · rintro (⟨hc, hd⟩ | ⟨hc, hr⟩)
    · exact step_driver_next hc hd
    · exact step_direct_next hc hr

end Sys2Proof.Machine
end

section
/-! SUPPORT. The collaborator's turn (R109) and the start of a run (R137). -/
namespace Sys2Proof.Machine

theorem checkArgs_ok {a : Args} {r : Rule} {g : Generation} (hr : RulesetIs a.ruleset r)
    (hg : SeedIs a.initialGeneration g) : checkArgs a = .ok (r, g) := by
  rw [checkArgs, (checkRuleset_eq_ok _ _).2 hr, (checkSeed_eq_ok _ _).2 hg]

/-- With an input that is not admissible one is rejected, and it is `ruleset` if the other is admissible (R109). -/
theorem checkArgs_error {a : Args}
    (h : (¬ ∃ r, RulesetIs a.ruleset r) ∨ ¬ ∃ g, SeedIs a.initialGeneration g) :
    ∃ e, checkArgs a = .error e ∧ ((∃ g, SeedIs a.initialGeneration g) → e.argument = .ruleset) := by
  simp only [← checkRuleset_eq_ok, ← checkSeed_eq_ok] at h ⊢
  cases hr : checkRuleset a.ruleset with
  | ok r =>
    cases hg : checkSeed a.initialGeneration with
    | ok g => simp [hr, hg] at h
    | error d =>
      simp only [checkArgs, hr, hg]
      exact ⟨_, rfl, nofun⟩
  | error c =>
    cases hg : checkSeed a.initialGeneration with
    | ok g =>
      simp only [checkArgs, hr, hg]
      exact ⟨_, rfl, fun _ => rfl⟩
    | error d =>
      simp only [checkArgs, hr, hg]
      split <;> exact ⟨_, rfl, nofun⟩

theorem validate_accepts {s : State} {r : Rule} {g : Generation} (h : checkArgs s.args = .ok (r, g)) :
    s.validate = s.accept r g := by
  rw [State.validate, h]

theorem validate_rejects {s : State} {e : InputError} (h : checkArgs s.args = .error e) :
    s.validate = s.reject (rejectStatus e) (messageOf e) := by
  rw [State.validate, h]

/-- Settles O48: the checks decide, and a rejection sets `done`, after which no step exists. -/
theorem validationContract : Obligations.ValidationContract := by
  intro s hc hd hp
  constructor
  · intro r g hr hg
    rw [step_validate hc hd hp, validate_accepts (checkArgs_ok hr hg), State.accept]
  · intro h
    obtain ⟨e, he, harg⟩ := checkArgs_error h
    refine ⟨rejectStatus e, messageOf e, ?_, Nat.succ_ne_zero _, step_over hc rfl, fun hseed => ?_⟩
    · rw [step_validate hc hd hp, validate_rejects he, State.reject]
    · rw [messageOf, messageArgument, harg hseed]

theorem rulesetIs_number (r : Rule) : RulesetIs (.number r.toNat) r := by
  have hr := r.isLt
  exact ⟨r.toNat, rfl, by omega, by omega, rfl⟩

theorem seedIs_number (g : Generation) : SeedIs (.number g.toNat) g := by
  have hg := g.isLt
  exact .inr ⟨g.toNat, rfl, by omega, by omega, rfl⟩

theorem seedIs_missing : SeedIs .missing (1#64 <<< 32) := .inl ⟨rfl, rfl⟩

/-- The collaborator's step on admissible arguments, from outside (R109, log 12). -/
theorem step_invoke {a : Args} {r : Rule} {g : Generation} (hr : RulesetIs a.ruleset r)
    (hg : SeedIs a.initialGeneration g) : step (.invoke a) = .next ((State.invoke a).accept r g) :=
  (step_validate rfl rfl rfl).trans (congrArg _ (validate_accepts (checkArgs_ok hr hg)))

/-- Settles O49: an absent generation stands for `1 << 32`, the power of two with bit 32 alone. -/
theorem defaultSeed : Obligations.DefaultSeed := by
  intro r
  refine ⟨_, step_invoke (rulesetIs_number r) seedIs_missing, rfl, rfl, rfl, fun i _ => ?_⟩
  rw [accept_cur, ← BitVec.twoPow_eq, BitVec.getLsbD_twoPow]
  exact decide_eq_decide.mpr eq_comm

/-- Settles O51: the start is the state the collaborator's step gives for the two numbers. -/
theorem startOfARun : Obligations.StartOfARun :=
  ⟨fun r g => ⟨rfl, rfl, rfl, rfl, rfl, rfl, rfl, rfl, step_invoke (rulesetIs_number r) (seedIs_number g)⟩,
    rfl, rfl, rfl, rfl, rfl, rfl⟩

end Sys2Proof.Machine
end

section
/-! SUPPORT. What no step but the collaborator's writes (R19). -/
namespace Sys2Proof.Machine

/-- What is fixed for a run is the same in both states (R19). -/
def SameInputs (s t : State) : Prop :=
  t.args = s.args ∧ t.ruleset = s.ruleset ∧ t.initialGeneration = s.initialGeneration ∧ t.rule = s.rule
    ∧ t.message = s.message ∧ t.caller = s.caller

theorem afterRender_sameInputs (s : State) : SameInputs s (afterRender s) := by
  by_cases h : s.rule = 0#8
  · rw [afterRender_zero h]
    exact ⟨rfl, rfl, rfl, rfl, rfl, rfl⟩
  · rw [afterRender_nonzero h]
    exact ⟨rfl, rfl, rfl, rfl, rfl, rfl⟩

theorem afterAdvance_sameInputs (s : State) : SameInputs s (afterAdvance s) := by
  by_cases h : s.next = s.cur ∨ s.n = 32
  · rw [afterAdvance_stop h]
    exact ⟨rfl, rfl, rfl, rfl, rfl, rfl⟩
  · obtain ⟨hne, hn⟩ := not_or.1 h
    rw [afterAdvance_continue hne hn]
    exact ⟨rfl, rfl, rfl, rfl, rfl, rfl⟩

/-- Settles O50: of everything a step can be, only the collaborator's turn writes an input. -/
theorem inputsAreFixedForTheRun : Obligations.InputsAreFixedForTheRun := by
  intro s t h hturn
  obtain ⟨hc, -, hp, rfl⟩ | ⟨-, -, -, rfl⟩ | ⟨-, -, -, rfl⟩ | ⟨-, w, ws, g, -, -, rfl⟩ | ⟨-, w, ws, g, r, -, -, rfl⟩ :=
    step_next_cases h
  · rcases hturn with hdirect | hphase
    · cases hc.symm.trans hdirect
    · exact absurd hp hphase
  · exact afterRender_sameInputs { s with out := s.out ++ row s.cur }
  · exact afterAdvance_sameInputs (s.respond (advance s.cur s.rule))
  · exact ⟨rfl, rfl, rfl, rfl, rfl, rfl⟩
  · exact ⟨rfl, rfl, rfl, rfl, rfl, rfl⟩

end Sys2Proof.Machine
end

section
/-! SUPPORT. The invariant of a run of the driver (R106): its clauses, and each of the driver's steps keeps it. -/
namespace Sys2Proof.Machine

theorem noFixedPointBefore_zero (r : Rule) (g : Generation) : NoFixedPointBefore r g 0 := nofun

theorem noFixedPointBefore_succ {r : Rule} {g : Generation} {k : Nat} (h : NoFixedPointBefore r g k)
    (hk : generation r g (k + 1) ≠ generation r g k) : NoFixedPointBefore r g (k + 1) := by
  intro m hm
  rcases Nat.lt_succ_iff_lt_or_eq.1 hm with hlt | rfl
  · exact h m hlt
  · exact hk

theorem atRender_running {s : State} (hd : s.done = false) :
    AtRender s ↔ s.n < 32 ∧ (s.n = 0 ∨ s.rule ≠ 0#8) ∧ s.cur = generation s.rule s.initialGeneration s.n
      ∧ NoFixedPointBefore s.rule s.initialGeneration s.n := by
  rw [AtRender, hd]
  rfl

theorem atRender_done {s : State} (hd : s.done = true) :
    AtRender s ↔ s.rule = 0#8 ∧ s.n = 1 ∧ s.cur = s.initialGeneration := by
  rw [AtRender, hd]
  rfl

section
variable {before : List Token} {s : State}

/-- The invariant's clause for the collaborator's turn. -/
theorem runInv_validate (h : RunInv before s) (hp : s.phase = .validate) : s.out = before := by
  obtain ⟨-, -, hphase⟩ := h
  rw [hp] at hphase
  obtain ⟨hout, -⟩ := hphase
  exact hout

/-- The invariant's clause before RENDER. -/
theorem runInv_renderNext (h : RunInv before s) (hp : s.phase = .renderNext) :
    s.rule = s.ruleset ∧ s.out = before ++ rowsOfRun s.rule s.initialGeneration s.n
      ∧ (s.done = true → s.exitStatus = some 0) ∧ AtRender s := by
  obtain ⟨-, -, hphase⟩ := h
  rwa [hp] at hphase

/-- The invariant's clause before ADVANCE. -/
theorem runInv_advanceNext (h : RunInv before s) (hp : s.phase = .advanceNext) :
    s.rule = s.ruleset ∧ s.out = before ++ rowsOfRun s.rule s.initialGeneration s.n
      ∧ (s.done = true → s.exitStatus = some 0) ∧ AtAdvance s := by
  obtain ⟨-, -, hphase⟩ := h
  rwa [hp] at hphase

/-- A driver that is handed two inputs stands at the beginning of their run (R101). -/
theorem runInv_accept (hc : s.caller = .driver) (hd : s.done = false) (hx : s.exitStatus = none)
    (hout : s.out = before) (r : Rule) (g : Generation) : RunInv before (s.accept r g) :=
  ⟨hc, fun _ => hx, rfl, hout.trans (List.append_nil before).symm,
    fun h => absurd (hd.symm.trans h) Bool.false_ne_true,
    Iff.mpr (atRender_running hd) ⟨Nat.zero_lt_succ 31, .inl rfl, rfl, noFixedPointBefore_zero r g⟩⟩

/-- The collaborator's turn begins the run or ends it (R109). -/
theorem validate_keeps_runInv (h : RunInv before s) (hd : s.done = false) (hp : s.phase = .validate) :
    RunInv before s.validate := by
  have hout := runInv_validate h hp
  obtain ⟨hc, hx, -⟩ := h
  cases hargs : checkArgs s.args with
  | ok inputs =>
    obtain ⟨r, g⟩ := inputs
    rw [validate_accepts hargs]
    exact runInv_accept hc hd (hx hd) hout r g
  | error e =>
    rw [validate_rejects hargs]
    refine ⟨hc, nofun, ?_⟩
    rw [reject_phase, hp]
    exact ⟨hout, fun _ => ⟨e, hargs, rfl⟩⟩

/-- RENDER prints the generation the count says (R102, R107). -/
theorem render_keeps_runInv (h : RunInv before s) (hd : s.done = false) (hp : s.phase = .renderNext) :
    RunInv before (afterRender { s with out := s.out ++ row s.cur }) := by
  obtain ⟨hrule, hout, -, hat⟩ := runInv_renderNext h hp
  obtain ⟨hc, hx, -⟩ := h
  obtain ⟨hn, hzero, hcur, hfix⟩ := (atRender_running hd).1 hat
  have hrows : s.out ++ row s.cur = before ++ rowsOfRun s.rule s.initialGeneration (s.n + 1) := by
    rw [hout, hcur, rowsOfRun_succ, List.append_assoc]
  by_cases hr : s.rule = 0#8
  · have hn0 : s.n = 0 := hzero.resolve_right (not_not_intro hr)
    rw [afterRender_zero (s := { s with out := s.out ++ row s.cur }) hr]
    refine ⟨hc, nofun, ?_⟩
    rw [finish_phase, countRow_phase, hp]
    refine ⟨hrule, hrows, fun _ => rfl, (atRender_done rfl).2 ⟨hr, congrArg (· + 1) hn0, ?_⟩⟩
    rw [hn0] at hcur
    exact hcur
  · rw [afterRender_nonzero (s := { s with out := s.out ++ row s.cur }) hr]
    refine ⟨hc, hx, hrule, hrows, fun h => absurd (hd.symm.trans h) Bool.false_ne_true, hr, ?_, ?_, hcur, hfix,
      fun h => absurd (hd.symm.trans h) Bool.false_ne_true⟩
    · exact Nat.le_add_left 1 s.n
    · exact hn

/-- ADVANCE computes the next generation, and the driver stops or goes on with it (R104, R105, R107). -/
theorem advance_keeps_runInv (h : RunInv before s) (hd : s.done = false) (hp : s.phase = .advanceNext) :
    RunInv before (afterAdvance (s.respond (advance s.cur s.rule))) := by
  obtain ⟨hrule, hout, -, hr, hpos, hn, hcur, hfix, -⟩ := runInv_advanceNext h hp
  obtain ⟨hc, hx, -⟩ := h
  obtain ⟨m, hm⟩ : ∃ m, s.n = m + 1 := ⟨s.n - 1, by omega⟩
  have hm' : s.n - 1 = m := by omega
  rw [hm'] at hcur hfix
  have hnext : advance s.cur s.rule = generation s.rule s.initialGeneration s.n := by rw [hcur, hm, generation]
  by_cases hstop : advance s.cur s.rule = s.cur ∨ s.n = 32
  · rw [afterAdvance_stop hstop]
    refine ⟨hc, nofun, ?_⟩
    rw [finish_phase, respond_phase, hp]
    refine ⟨hrule, hout, fun _ => rfl, hr, hpos, hn, ?_, ?_, fun _ => ⟨hnext, hstop⟩⟩
    · rw [finish_n, respond_n, hm']
      exact hcur
    · rw [finish_n, respond_n, hm']
      exact hfix
  · obtain ⟨hne, h32⟩ := not_or.1 hstop
    rw [afterAdvance_continue (s := s.respond (advance s.cur s.rule)) hne h32]
    have hmoved : NoFixedPointBefore s.rule s.initialGeneration s.n := by
      rw [hnext, hcur, hm] at hne
      rw [hm]
      exact noFixedPointBefore_succ hfix hne
    exact ⟨hc, hx, hrule, hout, fun h => absurd (hd.symm.trans h) Bool.false_ne_true,
      Iff.mpr (atRender_running hd) ⟨Nat.lt_of_le_of_ne hn h32, .inr hr, hnext, hmoved⟩⟩

end

/-- Settles O42: a driver's step is one of three, and each keeps the invariant. -/
theorem stepKeepsRunInv : Obligations.StepKeepsRunInv := by
  intro before s t hinv h
  have ⟨hc, _⟩ := hinv
  obtain ⟨-, hd, hp, rfl⟩ | ⟨-, hd, hp, rfl⟩ | ⟨-, hd, hp, rfl⟩ | ⟨hdirect, -⟩ | ⟨hdirect, -⟩ := step_next_cases h
  · exact validate_keeps_runInv hinv hd hp
  · exact render_keeps_runInv hinv hd hp
  · exact advance_keeps_runInv hinv hd hp
  · cases hc.symm.trans hdirect
  · cases hc.symm.trans hdirect

theorem runInv_start (r : Rule) (g : Generation) : RunInv [] (State.start r g) := runInv_accept rfl rfl rfl rfl r g

/-- Before the collaborator's turn nothing is printed and nothing done (log 12, log 25). -/
theorem runInv_invoke (a : Args) : RunInv [] (State.invoke a) := ⟨rfl, fun _ => rfl, rfl, nofun⟩

/-- No token is a sequence of no rows (R37). -/
theorem outIsRows_of_empty {s : State} (h : s.out = []) : OutIsRows s := ⟨[], h⟩

/-- Settles O43: reset is an accepted pair of inputs, as every start is; and `OUT` is empty in each. -/
theorem runInvAtTheStart : Obligations.RunInvAtTheStart :=
  ⟨runInv_accept (s := State.reset) rfl rfl rfl rfl 0#8 Config.defaultSeed, outIsRows_of_empty rfl,
    fun r g => ⟨runInv_start r g, outIsRows_of_empty rfl⟩,
    fun a => ⟨runInv_invoke a, outIsRows_of_empty rfl⟩⟩

end Sys2Proof.Machine
end

section
/-! SUPPORT. What holds of every state a run with validated inputs reaches (R105, R106, D23). -/
namespace Sys2Proof.Machine

/-- A run with validated inputs, as far as it has come (R107, D23). -/
structure NormalRun (s : State) : Prop where
  inv : RunInv [] s
  entered : s.phase ≠ .validate
  noMessage : s.message = none

theorem normalRun_start (r : Rule) (g : Generation) : NormalRun (State.start r g) :=
  ⟨runInv_start r g, nofun, rfl⟩

theorem afterRender_phase_ne_validate {s : State} (h : s.phase ≠ .validate) : (afterRender s).phase ≠ .validate := by
  by_cases hr : s.rule = 0#8
  · rw [afterRender_zero hr]
    exact h
  · rw [afterRender_nonzero hr]
    nofun

theorem afterAdvance_phase_ne_validate {s : State} (h : s.phase ≠ .validate) : (afterAdvance s).phase ≠ .validate := by
  by_cases hstop : s.next = s.cur ∨ s.n = 32
  · rw [afterAdvance_stop hstop]
    exact h
  · obtain ⟨hne, hn⟩ := not_or.1 hstop
    rw [afterAdvance_continue hne hn]
    nofun

/-- No step leads back to the collaborator's turn (R109). -/
theorem step_phase_ne_validate {s t : State} (hp : s.phase ≠ .validate) (h : step s = .next t) :
    t.phase ≠ .validate := by
  obtain ⟨-, -, hv, -⟩ | ⟨-, -, -, rfl⟩ | ⟨-, -, -, rfl⟩ | ⟨-, w, ws, g, -, -, rfl⟩ | ⟨-, w, ws, g, r, -, -, rfl⟩ :=
    step_next_cases h
  · exact absurd hv hp
  · exact afterRender_phase_ne_validate hp
  · exact afterAdvance_phase_ne_validate hp
  · exact hp
  · exact hp

theorem step_keeps_normalRun (s t : State) (hs : NormalRun s) (h : step s = .next t) : NormalRun t := by
  obtain ⟨-, -, -, -, hmessage, -⟩ := inputsAreFixedForTheRun s t h (.inr hs.entered)
  exact ⟨stepKeepsRunInv [] s t hs.inv h, step_phase_ne_validate hs.entered h, hmessage.trans hs.noMessage⟩

theorem run_normalRun {r : Rule} {g : Generation} {k : Nat} {t : State} (h : core.run k (.start r g) = .next t) :
    NormalRun t :=
  run_keeps step_keeps_normalRun k _ t (normalRun_start r g) h

theorem atRender_n_le {s : State} (h : AtRender s) : s.n ≤ 32 := by
  cases hd : s.done with
  | true =>
    obtain ⟨-, hn, -⟩ := (atRender_done hd).1 h
    omega
  | false =>
    obtain ⟨hn, -⟩ := (atRender_running hd).1 h
    omega

/-- Both phases of the driver agree on the rows printed, their number and the exit status (R105, R106, D23). -/
theorem normalRun_prints {s : State} (h : NormalRun s) :
    s.out = rowsOfRun s.rule s.initialGeneration s.n ∧ s.n ≤ 32 ∧ (s.done = true → s.exitStatus = some 0) := by
  rcases phase_cases s with hp | hp | hp
  · exact absurd hp h.entered
  · obtain ⟨-, hout, hexit, hat⟩ := runInv_renderNext h.inv hp
    exact ⟨hout, atRender_n_le hat, hexit⟩
  · obtain ⟨-, hout, hexit, -, -, hn, -⟩ := runInv_advanceNext h.inv hp
    exact ⟨hout, hn, hexit⟩

/-- Settles O46: the invariant holds the exit status, and no step writes a message. -/
theorem normalRunExitsZero : Obligations.NormalRunExitsZero := by
  intro r g k t h
  have hrun := run_normalRun h
  obtain ⟨-, -, hexit⟩ := normalRun_prints hrun
  obtain ⟨-, hnone, -⟩ := hrun.inv
  exact ⟨hexit, hnone, hrun.noMessage⟩

end Sys2Proof.Machine
end

section
/-! SUPPORT. Where a run of the driver ends (R102, R104, R105, R106): a fixed point, or the cap. -/
namespace Sys2Proof.Machine

/-- The beginning of round `k` of the run from `r` and `g`: `g_k` is current and the rows before it are printed (R103,
R106). -/
structure InRound (r : Rule) (g : Generation) (k : Nat) (s : State) : Prop extends AtRound s where
  rule_eq : s.rule = r
  count : s.n = k
  cur_eq : s.cur = generation r g k
  out_eq : s.out = rowsOfRun r g k

theorem inRound_start {r : Rule} (g : Generation) (hr : r ≠ 0#8) : InRound r g 0 (State.start r g) :=
  ⟨atRound_start g hr, rfl, rfl, rfl, rfl⟩

section
variable {r : Rule} {g : Generation} {k : Nat} {s : State}

theorem inRound_advance (h : InRound r g k s) : advance s.cur s.rule = generation r g (k + 1) := by
  rw [h.cur_eq, h.rule_eq, generation]

theorem inRound_rows (h : InRound r g k s) : s.out ++ row s.cur = rowsOfRun r g (k + 1) := by
  rw [h.out_eq, h.cur_eq, rowsOfRun_succ]

theorem inRound_nextRound (h : InRound r g k s) : InRound r g (k + 1) s.nextRound :=
  ⟨atRound_nextRound h.toAtRound, h.rule_eq, congrArg (· + 1) h.count, inRound_advance h, inRound_rows h⟩

end

/-- A run that meets no fixed point before `g_k` reaches its round after `2k` requests (R106). -/
theorem run_reaches_round {r : Rule} {g : Generation} (hr : r ≠ 0#8) (k : Nat) (hk : k ≤ 31)
    (hfix : NoFixedPointBefore r g k) : ∃ s, core.run (2 * k) (.start r g) = .next s ∧ InRound r g k s := by
  induction k with
  | zero => exact ⟨_, run_zero _, inRound_start g hr⟩
  | succ k ih =>
    obtain ⟨s, hrun, hs⟩ := ih (by omega) fun m hm => hfix m (by omega)
    have hne : advance s.cur s.rule ≠ s.cur := by
      rw [inRound_advance hs, hs.cur_eq]
      exact hfix k (by omega)
    have hn : s.n + 1 ≠ 32 := by
      rw [hs.count]
      omega
    exact ⟨_, (run_add hrun 2).trans (run_nextRound hs.toAtRound hne hn), inRound_nextRound hs⟩

/-- The round of the first fixed point, or of the cap, is the run's last (R104, R105). -/
theorem run_stops {r : Rule} {g : Generation} (hr : r ≠ 0#8) {k : Nat} (hk : k ≤ 31) (hfix : NoFixedPointBefore r g k)
    (hlast : generation r g (k + 1) = generation r g k ∨ k = 31) :
    ∃ t, core.run (2 * (k + 1)) (.start r g) = .next t ∧ t.done = true ∧ t.n = k + 1
      ∧ t.out = rowsOfRun r g (k + 1) ∧ t.next = generation r g (k + 1) := by
  obtain ⟨s, hrun, hs⟩ := run_reaches_round hr k hk hfix
  have hstop : advance s.cur s.rule = s.cur ∨ s.n + 1 = 32 := by
    rw [inRound_advance hs, hs.cur_eq, hs.count]
    exact hlast.imp_right (congrArg (· + 1))
  exact ⟨_, (run_add hrun 2).trans (run_last_round hs.toAtRound hstop), rfl, congrArg (· + 1) hs.count,
    inRound_rows hs, inRound_advance hs⟩

/-- With rule 0 the run is one request (R102). -/
theorem step_start_rule_zero (g : Generation) :
    step (.start 0#8 g) = .next (State.finish { State.start 0#8 g with out := row g, n := 1 }) :=
  (step_render rfl rfl rfl).trans (congrArg _ (afterRender_zero rfl))

/-- Settles O39: the one step is a RENDER and sets `done`. -/
theorem ruleZeroRendersOnce : Obligations.RuleZeroRendersOnce := by
  intro g
  exact ⟨_, step_start_rule_zero g, turn_render rfl rfl rfl, rfl, rfl, rfl, step_over rfl rfl⟩

/-- Settles O40: the stop and the going on are the ADVANCE step's two cases; a run that begins at a fixed point ends in
its first round; rule 1 has period 2. -/
theorem fixedPointStopsTheDriver : Obligations.FixedPointStopsTheDriver := by
  refine ⟨fun s hc hd hp hfix => ?_, fun r g hr hfix => ?_, fun s hc hd hp hne hn => ?_, by decide, by decide⟩
  · exact ⟨_, (driverAdvanceStep s hc hd hp).1 (.inl hfix), rfl, rfl⟩
  · exact ⟨_, run_last_round (atRound_start g hr) (.inl hfix), rfl, rfl⟩
  · exact ⟨_, (driverAdvanceStep s hc hd hp).2 hne hn, hd, rfl, rfl⟩

/-- Settles O41: the invariant bounds every run, and without a fixed point the run reaches the round of the cap. -/
theorem atMostThirtyTwoRows : Obligations.AtMostThirtyTwoRows := by
  constructor
  · intro r g k t h
    obtain ⟨hout, hn, -⟩ := normalRun_prints (run_normalRun h)
    exact ⟨hn, (congrArg List.length hout).trans (rowsOfRun_length _ _ _)⟩
  · intro r g hr hfix
    exact run_stops hr le_rfl hfix (.inr rfl)

/-- A run has a last round: that of its first fixed point below 31, or the 32nd (R106). -/
theorem exists_last_round (r : Rule) (g : Generation) :
    ∃ k ≤ 31, NoFixedPointBefore r g k ∧ (generation r g (k + 1) = generation r g k ∨ k = 31) := by
  classical
  have hex : ∃ k, generation r g (k + 1) = generation r g k ∨ k = 31 := ⟨31, .inr rfl⟩
  refine ⟨Nat.find hex, Nat.find_min' hex (.inr rfl), fun m hm hfix => ?_, Nat.find_spec hex⟩
  exact Nat.find_min hex hm (.inl hfix)

/-- The last round is the one the first fixed point below 31 names, and otherwise the 32nd (R106). -/
theorem last_round_eq {r : Rule} {g : Generation} {k f : Nat} (hk : k ≤ 31) (hbefore : NoFixedPointBefore r g k)
    (hlast : generation r g (k + 1) = generation r g k ∨ k = 31) (hf : generation r g (f + 1) = generation r g f)
    (hfirst : NoFixedPointBefore r g f) : k + 1 = min 32 (f + 1) := by
  have hkf : k ≤ f := Nat.le_of_not_lt fun hlt => hbefore f hlt hf
  rcases hlast with hfix | rfl
  · have hfk : f ≤ k := Nat.le_of_not_lt fun hlt => hfirst k hlt hfix
    omega
  · omega

/-- Settles O45: rule 0 ends the run after one row, and any other rule in its last round. -/
theorem whatARunPrints : Obligations.WhatARunPrints := by
  intro r g
  by_cases hr : r = 0#8
  · subst hr
    refine ⟨1, 1, _, by decide, (run_step (step_start_rule_zero g) 0).trans (run_zero _), rfl, ?_, le_rfl, by decide,
      row_length g, fun _ => rfl, fun h => absurd rfl h, fun h => absurd rfl h⟩
    exact (List.flatMap_singleton ..).symm
  · obtain ⟨k, hk, hbefore, hlast⟩ := exists_last_round r g
    obtain ⟨t, hrun, hdone, -, hout, -⟩ := run_stops hr hk hbefore hlast
    refine ⟨2 * (k + 1), k + 1, t, by omega, hrun, hdone, hout, by omega, by omega,
      (congrArg List.length hout).trans (rowsOfRun_length r g (k + 1)), fun h => absurd h hr,
      fun _ f hf hfirst => last_round_eq hk hbefore hlast hf hfirst, fun _ hnone => ?_⟩
    have h31 : k = 31 := hlast.resolve_left (hnone k (by omega))
    rw [h31]

end Sys2Proof.Machine
end
